-- ==== Sys2Proof/Word.lean ====
section
/-! DEFINITION. The word types of the block: bytes, 32-bit registers, block-relative addresses, binary64 patterns. -/

namespace Sys2Proof

/-- A byte of memory; also a bit cell (00_scope.md R13). -/
abbrev Byte := BitVec 8

/-- A control and status register, a command word, the data of one host access (10_state.md R34, 20_memory.md R96). -/
abbrev Word := BitVec 32

/-- A block-relative byte address: 0x000000 to 0x7FFFFF (20_memory.md R90). -/
abbrev Addr := BitVec 23

/-- The 64-bit pattern of an IEEE 754 binary64 value (00_scope.md R14). -/
abbrev F64 := BitVec 64

end Sys2Proof
end

