-- ==== Sys2Proof/Config.lean ====
section
/-! DEFINITION. What this implementation fixes: the parameters of 00_scope.md R8 at their defaults, the identity
constants, the platform parameters left open, and the free values (constants without a body). -/

namespace Sys2Proof

/-! Parameters (00_scope.md R8; log entry 8). -/

/-- `N_MAX`: largest legal FRAME_LEN. -/
def Config.nMax : Nat := 4096
/-- `N_RESET`: FRAME_LEN after reset. -/
def Config.nReset : Nat := 1024
/-- `K_MIN`: least legal constraint length. -/
def Config.kMin : Nat := 3
/-- `K_MAX`: largest legal constraint length. -/
def Config.kMax : Nat := 16
/-- `K_RESET`: CONSTRAINT_LEN after reset. -/
def Config.kReset : Nat := 3
/-- `BUF_BYTES`: size in bytes of the SRC buffer and of the DST buffer. -/
def Config.bufBytes : Nat := 0x100000
/-- `TAP_MAX`: entries of the RRC tap table. -/
def Config.tapMax : Nat := 1024
/-- `ACAR_MAX`: entries of the ASK carrier table. -/
def Config.acarMax : Nat := 8192
/-- `QCAR_MAX`: entries of each QPSK carrier table. -/
def Config.qcarMax : Nat := 131072
/-- `NOISE_MAX`: entries of the noise table. -/
def Config.noiseMax : Nat := 131072
/-- `ITER_MAX`: largest decoder iteration count. -/
def Config.iterMax : Nat := 255
/-- `PAYLOAD_MAX`: largest framer payload in bytes. -/
def Config.payloadMax : Nat := 65535
/-- `HEADER_RESET`: FR_HEADER after reset. -/
def Config.headerReset : BitVec 16 := 0xAA55

/-- `ID`: the ASCII bytes "PSLC" (10_state.md R36). -/
def Config.idValue : Word := 0x50534C43
/-- `VERSION` (10_state.md R36). -/
def Config.versionValue : Word := 0x00000001

/-! Platform parameters left OPEN by the spec (92_eei_decisions.md D8, D31; log entry 9): no body, so no statement
can rest on a value of theirs. -/

/-- Which multiple of 0x800000 the platform chose for `PSLC_BASE` (20_memory.md R90). -/
opaque Config.pslcWindow : Nat
/-- `PSLC_IRQ_LINE`: the line of the host's interrupt controller that IRQ drives (60_exceptions.md R340). -/
opaque Config.pslcIrqLine : Nat
/-- `PSLC_BASE`: the window's base in the host's physical address space, a multiple of 0x800000 (20_memory.md R90). -/
def Config.pslcBase : Nat := Config.pslcWindow * 0x800000

/-! Free values: constants without a body, applied to plain counters of the state. -/

/-- What a byte of RAM holds that nothing has written since its contents became unspecified: the first argument is
the epoch (a counter of the state), the second the block-relative address (20_memory.md R104,
70_reset_and_hazards.md R370 and R372; log entries 3 and 4). -/
opaque Config.unspecifiedByte : Nat → Nat → Byte

/-- The sign (bit 51) and the payload (bits 50 to 0) of a NaN that a command writes out: the first argument counts
completions, the second is the index of the output element (00_scope.md R14, 93_implementation_defined.md U1;
log entry 5). -/
opaque Config.nanBits : Nat → Nat → BitVec 52

end Sys2Proof
end

