-- ==== Sys2Proof/Syntax.lean ====
section
/-! DEFINITION. The sixteen commands of the opcode map (30_encoding.md R132), one constructor per row of
spec/opcode_table.json. -/

namespace Sys2Proof

/-- A command. Only TDEC has an operand of its own, its iteration count ARG (30_encoding.md R131); every other operand
lies in configuration registers and memory regions (R135). -/
inductive Instr where
  /-- complete with no effect (40_control.md R150) -/
  | nop
  /-- validate the ILV table (42_turbo_encoder.md R193) -/
  | ilvchk
  /-- bit cells to bytes (41_bitframe.md R172) -/
  | pack
  /-- bytes to bit cells (41_bitframe.md R174) -/
  | unpack
  /-- one RSC encoder (42_turbo_encoder.md R195) -/
  | rscenc
  /-- interleave N bytes (42_turbo_encoder.md R196) -/
  | ilv
  /-- deinterleave N bytes (42_turbo_encoder.md R197) -/
  | dilv
  /-- turbo encode one frame (42_turbo_encoder.md R198) -/
  | tenc
  /-- turbo decode one frame with `iter` iterations (43_turbo_decoder.md R220) -/
  | tdec (iter : BitVec 8)
  /-- CRC-16 of a byte-aligned bit sequence (46_framer.md R301) -/
  | crc
  /-- build one protocol frame (46_framer.md R302) -/
  | fbuild
  /-- validate and strip one protocol frame (46_framer.md R303) -/
  | fparse
  /-- ASK modulate (44_ask_modem.md R251) -/
  | amod
  /-- ASK demodulate (44_ask_modem.md R252) -/
  | adem
  /-- QPSK modulate (45_qpsk_modem.md R272) -/
  | qmod
  /-- QPSK demodulate (45_qpsk_modem.md R280) -/
  | qdem
  deriving DecidableEq, Repr

end Sys2Proof
end

