-- ==== Sys2Proof/WellFormed.lean ====
section
/-! DEFINITION. Which terms of `Instr` stand for a legal command word (30_encoding.md R133). -/

namespace Sys2Proof

/-- A command is legal as R133 says: ARG is 0 for every command but TDEC (which the syntax builds in), and
1 ≤ ARG ≤ ITER_MAX for TDEC. -/
def Instr.wellFormed : Instr → Bool
  | .tdec iter => decide (1 ≤ iter.toNat) && decide (iter.toNat ≤ Config.iterMax)
  | .nop | .ilvchk | .pack | .unpack | .rscenc | .ilv | .dilv | .tenc | .crc | .fbuild | .fparse | .amod | .adem
  | .qmod | .qdem => true

end Sys2Proof
end

