-- ==== Sys2Proof/Decode.lean ====
section
/-! DEFINITION. The decoder, total on every 32-bit word and rejecting by name (30_encoding.md R130 to R136), and the
encoder after it. -/

namespace Sys2Proof

/-- Why a command word is illegal (30_encoding.md R133). Every illegal word ends the same way, in IllegalCommand
with the word as its detail (60_exceptions.md R330); the name says which clause of R133 it breaks. -/
inductive DecodeError where
  /-- RSV ≠ 0 -/
  | reservedNonzero
  /-- OP is not in the table of R132 (the OPs 0xE0 to 0xFF among them) -/
  | unassignedOp
  /-- ARG ≠ 0 where R133 wants 0 -/
  | argNonzero
  /-- TDEC with ARG outside 1 to ITER_MAX -/
  | iterOutOfRange
  deriving DecidableEq, Repr

/-- Bits [7:0], the opcode (R130). -/
def cmdOp (w : Word) : Byte := w.extractLsb' 0 8

/-- Bits [15:8], the argument (R130). -/
def cmdArg (w : Word) : Byte := w.extractLsb' 8 8

/-- Bits [31:16], reserved, must be 0 (R130). -/
def cmdRsv (w : Word) : BitVec 16 := w.extractLsb' 16 16

/-- The opcode map of R132, with the argument field beside the opcode: which command, if any, an OP names. -/
def opcodeMap (op arg : Byte) : Option Instr :=
  match op with
  | 0x00#8 => some .nop
  | 0x01#8 => some .ilvchk
  | 0x02#8 => some .pack
  | 0x03#8 => some .unpack
  | 0x10#8 => some .rscenc
  | 0x11#8 => some .ilv
  | 0x12#8 => some .dilv
  | 0x13#8 => some .tenc
  | 0x18#8 => some (.tdec arg)
  | 0x20#8 => some .crc
  | 0x21#8 => some .fbuild
  | 0x22#8 => some .fparse
  | 0x30#8 => some .amod
  | 0x31#8 => some .adem
  | 0x38#8 => some .qmod
  | 0x39#8 => some .qdem
  | _ => none

/-- The command a word stands for, or the clause of R133 it breaks. -/
def decode (w : Word) : Except DecodeError Instr :=
  if cmdRsv w ≠ 0 then .error .reservedNonzero
  else
    match opcodeMap (cmdOp w) (cmdArg w) with
    | none => .error .unassignedOp
    | some (.tdec iter) => if (Instr.tdec iter).wellFormed then .ok (.tdec iter) else .error .iterOutOfRange
    | some i => if cmdArg w = 0 then .ok i else .error .argNonzero

/-- The OP of each command (R132). -/
def Instr.opcode : Instr → Byte
  | .nop => 0x00
  | .ilvchk => 0x01
  | .pack => 0x02
  | .unpack => 0x03
  | .rscenc => 0x10
  | .ilv => 0x11
  | .dilv => 0x12
  | .tenc => 0x13
  | .tdec _ => 0x18
  | .crc => 0x20
  | .fbuild => 0x21
  | .fparse => 0x22
  | .amod => 0x30
  | .adem => 0x31
  | .qmod => 0x38
  | .qdem => 0x39

/-- The ARG of each command: the iteration count for TDEC, 0 for every other (R130). -/
def Instr.arg : Instr → Byte
  | .tdec iter => iter
  | .nop | .ilvchk | .pack | .unpack | .rscenc | .ilv | .dilv | .tenc | .crc | .fbuild | .fparse | .amod | .adem
  | .qmod | .qdem => 0

/-- The command word: RSV, ARG, OP from the most significant bit down, with RSV = 0 (R130). -/
def encode (i : Instr) : Word := (0#16 ++ i.arg ++ i.opcode : BitVec (16 + 8 + 8))

/-- What the decoder reads from an instruction of the opcode table whose bits are `w`, of which the table gives
`nbits`: the command word is one 32-bit word (R136), every bit at and above `nbits` is 0, and a number that still has
a bit above bit 31 is no command word (log entry 15). -/
def decodeTableWord (nbits w : Nat) : Option Instr :=
  let v := w % 2 ^ nbits
  if v < 2 ^ 32 then
    match decode (BitVec.ofNat 32 v) with
    | .ok i => some i
    | .error _ => none
  else none

end Sys2Proof
end

