-- ==== Sys2Proof/Machine/State.lean ====
section
/-! DEFINITION. The state of the block and of the bus beside it, as plain data, and the state after power-on reset. -/

namespace Sys2Proof.Machine

/-- Why the machine would stop with a fault. The block has no fatal state, no bus error and no machine check: "every
failure is local to one frame's processing" (60_exceptions.md R338), every command completes (R336) and every host
access has a defined result (20_memory.md R96). So no fault exists, nothing raises one, and the type has no constructor
(log entry 16). -/
inductive Fault where
  deriving DecidableEq, Repr

/-- Why the model would refuse a command. -/
inductive Refusal where
  /-- A command without a meaning would be rejected by this name; every command has its meaning, so nothing raises it.
  Safe: a refusal proves nothing about the hardware. -/
  | notModelled (mnemonic : String)
  deriving DecidableEq, Repr

/-- The RAM regions of the block window (20_memory.md R91). -/
inductive Region where
  | ilv | tap | acar | src | dst | qcos | qsin | noise
  deriving DecidableEq, Repr

/-- The registers of the CSR region (10_state.md section 3). -/
inductive Reg where
  | id | version | ctrl | status | cmd | errInfo | accAddr | srcLen | dstLen | frameLen | constraintLen | rscTaps
  | rsc1State | rsc2State | frHeader | crcPoly | crcInit | crcXorout | crcCfg | crcResult | askSpb | qpskSps
  | qpskFrameLen | qpskNtaps | qpskSmp | qpskCtrl | lastCmd
  deriving DecidableEq, Repr

/-- Why a host access is illegal (20_memory.md R96). -/
inductive AccCause where
  | reserved | misaligned | busy
  deriving DecidableEq, Repr

/-- The error codes a command can raise (60_exceptions.md R330). -/
inductive ErrKind where
  | frameLengthMismatch | unalignedPayload | nonBinaryInput | headerMismatch | incompleteFrame | crcMismatch
  | segmentAlignment | signalLengthMismatch | invalidBit | illegalCommand | configError | interleaverInvalid
  | capacityExceeded | payloadTooLong
  deriving DecidableEq, Repr

/-- An error a command ends with: its code and its ERR_INFO value (00_scope.md R11, `raise Error(code, info)`). -/
structure CmdError where
  kind : ErrKind
  info : Word
  deriving DecidableEq, Repr

/-- What happens next around the sequencer, in one total order (20_memory.md R105; log entry 1): a host read, a host
write, the sequencer's turn (its completion step if it is BUSY, nothing in IDLE), or the platform's power-on reset. -/
inductive Event where
  | hostRead (addr : Addr)
  | hostWrite (addr : Addr) (data : Word)
  | sequencer
  | powerOn
  deriving DecidableEq, Repr

/-- The control and status registers (10_state.md R36 to R58). Each field has its own width; the reserved bits of a
register have no storage and read 0 (R34; log entry 13). ID and VERSION are constants (R36); CMD is write-only (R39). -/
structure Csr where
  /-- CTRL.IRQ_EN (R38) -/
  irqEn : Bool
  /-- STATUS.BUSY (R37): the sequencer's control state, IDLE or BUSY (R31) -/
  busy : Bool
  /-- STATUS.DONE (R37) -/
  doneFlag : Bool
  /-- STATUS.ERR (R37) -/
  err : Bool
  /-- STATUS.CMD_OVR (R37) -/
  cmdOvr : Bool
  /-- STATUS.ACC_ERR (R37) -/
  accErr : Bool
  /-- STATUS.ILV_VALID (R37, 42_turbo_encoder.md R194) -/
  ilvValid : Bool
  /-- STATUS.ERRCODE (R37) -/
  errcode : BitVec 8
  /-- ERR_INFO (R40) -/
  errInfo : BitVec 32
  /-- ACC_ADDR.ADDR (R41) -/
  accAddr : BitVec 23
  /-- ACC_ADDR.CAUSE (R41) -/
  accCause : BitVec 2
  /-- ACC_ADDR.WR (R41) -/
  accWr : Bool
  /-- SRC_LEN (R42) -/
  srcLen : BitVec 32
  /-- DST_LEN (R43) -/
  dstLen : BitVec 32
  /-- FRAME_LEN.N (R44) -/
  frameLen : BitVec 16
  /-- CONSTRAINT_LEN.K (R45) -/
  constraintLen : BitVec 5
  /-- RSC_TAPS.TAP_A (R46) -/
  tapA : BitVec 4
  /-- RSC_TAPS.TAP_B (R46) -/
  tapB : BitVec 4
  /-- RSC1_STATE (R47) -/
  rsc1State : BitVec 15
  /-- RSC2_STATE (R47) -/
  rsc2State : BitVec 15
  /-- FR_HEADER (R48) -/
  frHeader : BitVec 16
  /-- CRC_POLY (R49) -/
  crcPoly : BitVec 16
  /-- CRC_INIT (R49) -/
  crcInit : BitVec 16
  /-- CRC_XOROUT (R49) -/
  crcXorout : BitVec 16
  /-- CRC_CFG.REFIN (R49) -/
  refin : Bool
  /-- CRC_CFG.REFOUT (R49) -/
  refout : Bool
  /-- CRC_RESULT (R50) -/
  crcResult : BitVec 16
  /-- ASK_SPB.SPB (R51) -/
  askSpb : BitVec 16
  /-- QPSK_SPS.SPS (R52) -/
  qpskSps : BitVec 16
  /-- QPSK_FRAME_LEN.FL (R53) -/
  qpskFrameLen : BitVec 21
  /-- QPSK_NTAPS.NT (R54) -/
  qpskNtaps : BitVec 11
  /-- QPSK_SMP.OFFSET (R55) -/
  smpOffset : BitVec 21
  /-- QPSK_SMP.MODE (R55) -/
  smpMode : BitVec 2
  /-- QPSK_CTRL.NOISE_EN (R56) -/
  noiseEn : Bool
  /-- LAST_CMD (R58), which is also the latched command while BUSY (R63) -/
  lastCmd : BitVec 32
  deriving DecidableEq, Repr

/-- The reset value of every CSR (10_state.md section 3, 70_reset_and_hazards.md R370 and R371). -/
def Csr.reset : Csr where
  irqEn := false
  busy := false
  doneFlag := false
  err := false
  cmdOvr := false
  accErr := false
  ilvValid := false
  errcode := 0
  errInfo := 0
  accAddr := 0
  accCause := 0
  accWr := false
  srcLen := 0
  dstLen := 0
  frameLen := BitVec.ofNat 16 Config.nReset
  constraintLen := BitVec.ofNat 5 Config.kReset
  tapA := 1
  tapB := 0
  rsc1State := 0
  rsc2State := 0
  frHeader := Config.headerReset
  crcPoly := 0x8005
  crcInit := 0x0000
  crcXorout := 0x0000
  refin := true
  refout := true
  crcResult := 0
  askSpb := 0
  qpskSps := 0
  qpskFrameLen := 0
  qpskNtaps := 0
  smpOffset := 0
  smpMode := 0
  noiseEn := false
  lastCmd := 0

/-- The RAM regions as one sparse memory: the bytes something has written, by block-relative address. A byte that is
not listed holds no value of the model's choosing (log entry 3). -/
structure Memory where
  cells : List Host.Cell
  deriving DecidableEq, Repr

/-- The whole machine: the block's registers and RAM, and the model's own fields (INVENTORY.md, State). -/
structure State where
  /-- the control and status registers -/
  csr : Csr
  /-- the RAM regions (20_memory.md R91) -/
  ram : Memory
  /-- the model's own: how often the RAM regions but DST became unspecified (log entry 3) -/
  ramEpoch : Nat
  /-- the model's own: how often DST became unspecified (log entries 3 and 4) -/
  dstEpoch : Nat
  /-- the model's own: how many commands completed, to index free NaN encodings (log entry 5) -/
  completions : Nat
  /-- the model's own: what happens next around the sequencer (log entry 1) -/
  events : List Event
  /-- the model's own: the values the host has read, newest first (30_encoding.md R138; log entry 10) -/
  reads : List Word
  deriving DecidableEq, Repr

/-- The machine right after power-on reset (70_reset_and_hazards.md R370): every CSR at its reset value, RAM
unspecified (nothing listed), the sequencer IDLE. The model's own fields are empty or 0 (DESIGN CHOICE, log
entry 17). -/
def State.reset : State where
  csr := Csr.reset
  ram := ⟨[]⟩
  ramEpoch := 0
  dstEpoch := 0
  completions := 0
  events := []
  reads := []

/-- The outcome of a step of this machine. -/
abbrev StepResult := Host.Outcome State Fault Refusal

end Sys2Proof.Machine
end

