-- ==== Sys2Proof/Machine/Ops.lean ====
section
/-! DEFINITION. The named operations over memory and registers: region map, byte reads and writes, command acceptance,
completion with a result, completion with an error (this block's way of taking an exception), soft and power-on reset,
and the interrupt output. -/

namespace Sys2Proof.Machine

/-! The address map (20_memory.md R91). -/

/-- The block-relative base address of a region (R91). -/
def Region.base : Region → Nat
  | .ilv => 0x010000
  | .tap => 0x020000
  | .acar => 0x030000
  | .src => 0x100000
  | .dst => 0x200000
  | .qcos => 0x300000
  | .qsin => 0x400000
  | .noise => 0x500000

/-- The used size of a region in bytes (R91, by its formulas over the parameters). -/
def Region.size : Region → Nat
  | .ilv => Config.nMax * 4
  | .tap => Config.tapMax * 8
  | .acar => Config.acarMax * 8
  | .src => Config.bufBytes
  | .dst => Config.bufBytes
  | .qcos => Config.qcarMax * 8
  | .qsin => Config.qcarMax * 8
  | .noise => Config.noiseMax * 8

/-- Whether a block-relative address lies in the used part of a region. -/
def Region.contains (r : Region) (a : Nat) : Bool := decide (r.base ≤ a) && decide (a < r.base + r.size)

/-- Every RAM region, in address order. -/
def Region.all : List Region := [.ilv, .tap, .acar, .src, .dst, .qcos, .qsin, .noise]

/-- The RAM region an address lies in, if any (R91). -/
def regionOf (a : Nat) : Option Region := Region.all.find? (fun r => r.contains a)

/-! Memory: a list of written bytes in one canonical form. -/

/-- `bytes` laid out from address `a` upwards. -/
def cellsFrom (a : Nat) : List Byte → List Host.Cell
  | [] => []
  | b :: bs => (a, b) :: cellsFrom (a + 1) bs

/-- The byte written last at an address, if something has written it (log entry 3). -/
def Memory.lookup (m : Memory) (a : Nat) : Option Byte := m.cells.lookup a

/-- Store `bytes` from address `a` upwards; every other byte keeps its value. -/
def Memory.write (m : Memory) (a : Nat) (bytes : List Byte) : Memory :=
  match bytes with
  | [] => m
  | b :: bs =>
    ⟨m.cells.filter (fun c => decide (c.1 < a)) ++ cellsFrom a (b :: bs)
      ++ m.cells.filter (fun c => decide (a + (b :: bs).length ≤ c.1))⟩

/-- Forget the bytes of `n` addresses from `a` upwards: their contents become unspecified. -/
def Memory.forget (m : Memory) (a n : Nat) : Memory :=
  ⟨m.cells.filter (fun c => decide (c.1 < a) || decide (a + n ≤ c.1))⟩

/-- The canonical form: addresses strictly rising. (An unlisted address holds no byte of the model's choosing, so no
listed byte can equal it; log entry 3.) -/
def Memory.wf (m : Memory) : Bool := decide ((m.cells.map Prod.fst).Pairwise (· < ·))

/-- Which counter of the state indexes the free contents of an address: DST has its own, because an aborted command
leaves DST alone unspecified (70_reset_and_hazards.md R372). -/
def State.epochOf (s : State) (a : Nat) : Nat := if Region.dst.contains a then s.dstEpoch else s.ramEpoch

/-- One byte of memory: what was written last, or a free value where nothing has written since the contents became
unspecified (20_memory.md R104; log entries 3 and 4). -/
def State.readByte (s : State) (a : Nat) : Byte := (s.ram.lookup a).getD (Config.unspecifiedByte (s.epochOf a) a)

/-- `n` bytes from address `a` upwards. -/
def State.readBytes (s : State) (a n : Nat) : List Byte := (List.range n).map (fun i => s.readByte (a + i))

/-- The unsigned integer of a little-endian byte sequence (20_memory.md R93). -/
def leNat : List Byte → Nat
  | [] => 0
  | b :: bs => b.toNat + 256 * leNat bs

/-- The `n` low bytes of an integer, little-endian (20_memory.md R93). -/
def leBytes : Nat → Nat → List Byte
  | 0, _ => []
  | n + 1, v => BitVec.ofNat 8 v :: leBytes n (v / 256)

/-- `MemRead(region, off, n)` (00_scope.md R11). -/
def memRead (r : Region) (off n : Nat) (s : State) : Nat := leNat (s.readBytes (r.base + off) n)

/-- A number as an ERR_INFO or DST_LEN value, saturated to 0xFFFFFFFF (60_exceptions.md R330; log entry 12). -/
def sat32 (n : Nat) : Word := if 0xFFFFFFFF < n then 0xFFFFFFFF else BitVec.ofNat 32 n

/-! Acceptance and completion (60_exceptions.md sections 1 and 3). -/

/-- The ERRCODE of each error (R330). -/
def ErrKind.code : ErrKind → BitVec 8
  | .frameLengthMismatch => 0x01
  | .unalignedPayload => 0x02
  | .nonBinaryInput => 0x03
  | .headerMismatch => 0x04
  | .incompleteFrame => 0x05
  | .crcMismatch => 0x06
  | .segmentAlignment => 0x07
  | .signalLengthMismatch => 0x08
  | .invalidBit => 0x09
  | .illegalCommand => 0x10
  | .configError => 0x11
  | .interleaverInvalid => 0x12
  | .capacityExceeded => 0x13
  | .payloadTooLong => 0x14

/-- What a command does when every check passed: the bytes it writes from DST byte 0 upwards and the register file with
its updates, DST_LEN among them (`Ok(outputs, csr updates)`, 00_scope.md R12). -/
structure Effect where
  dst : List Byte
  csr : Csr
  deriving DecidableEq, Repr

/-- The end of every completion: BUSY falls and DONE rises (R336). -/
def Csr.completed (c : Csr) : Csr := { c with busy := false, doneFlag := true }

/-- Completion with a result (R336, the `Ok` arm): the DST bytes [0, out_bytes) and the register updates, then the end
of the completion. Nothing else of memory changes (20_memory.md R92). -/
def completeOk (e : Effect) (s : State) : State :=
  { s with
    csr := e.csr.completed
    ram := s.ram.write Region.dst.base e.dst
    completions := s.completions + 1 }

/-- Taking an error (R336, the `Err` arm; the block's one kind of exception, R339): ERRCODE holds the code, ERR_INFO the
detail, ERR is set, DST_LEN is 0; BUSY falls, DONE rises. Precise: nothing else changes (R333). Its counterpart, the
"trap return" of R339, is `acceptCmd`. -/
def completeErr (e : CmdError) (s : State) : State :=
  { s with
    csr := { s.csr with errcode := e.kind.code, errInfo := e.info, err := true, dstLen := 0 }.completed
    completions := s.completions + 1 }

/-- The completion of a command: its first failing check ends it with that error, else it has its effect, which the
state gives (R331, R336). -/
def complete (failed : Option CmdError) (effect : State → Effect) (s : State) : State :=
  match failed with
  | some err => completeErr err s
  | none => completeOk (effect s) s

/-- Acceptance of a command word in IDLE (R335), which also ends the report of the last error (R339). -/
def acceptCmd (w : Word) (s : State) : State :=
  { s with csr := { s.csr with
      lastCmd := w
      doneFlag := false
      err := false
      errcode := 0
      errInfo := 0
      busy := true } }

/-- A CMD write while BUSY is dropped and sets CMD_OVR (R337). -/
def dropCmd (s : State) : State := { s with csr := { s.csr with cmdOvr := true } }

/-- Completion of an illegal command word: IllegalCommand, with the word as the detail (30_encoding.md R133). -/
def completeIllegal (s : State) : State := completeErr ⟨.illegalCommand, s.csr.lastCmd⟩ s

/-! Reset (70_reset_and_hazards.md). -/

/-- DST after an aborted command: every byte unspecified (R372; log entry 4). -/
def loseDst (s : State) : State :=
  { s with ram := s.ram.forget Region.dst.base Region.dst.size, dstEpoch := s.dstEpoch + 1 }

/-- Soft reset (R372): every CSR takes its reset value, a latched command never completes, RAM is preserved but for DST
after such an abort. -/
def softReset (s : State) : State :=
  let s' := if s.csr.busy then loseDst s else s
  { s' with csr := Csr.reset }

/-- Power-on reset asserted by the platform (R370): every CSR takes its reset value, every RAM byte is unspecified. The
bus side (pending events, recorded reads) belongs to the host and stays (log entry 11). -/
def powerOnReset (s : State) : State :=
  { s with csr := Csr.reset, ram := ⟨[]⟩, ramEpoch := s.ramEpoch + 1, dstEpoch := s.dstEpoch + 1 }

/-! The interrupt output (60_exceptions.md R340). -/

/-- `IRQ = CTRL.IRQ_EN AND STATUS.DONE`, a level. -/
def Csr.irq (c : Csr) : Bool := c.irqEn && c.doneFlag

/-- The lines of the host's interrupt controller that the block holds high (R340; log entry 9). -/
def State.irqLines (s : State) : List Nat := if s.csr.irq then [Config.pslcIrqLine] else []

end Sys2Proof.Machine
end

