-- ==== Sys2Proof/Machine/Flags.lean ====
section
/-! DEFINITION. The STATUS flags (the block has no arithmetic condition codes, 10_state.md R60) and the 32-bit view of
each register: what a read of it returns and what a write to it stores. -/

namespace Sys2Proof.Machine

/-- STATUS as the host reads it (10_state.md R37): BUSY, DONE, ERR, CMD_OVR, ACC_ERR, ILV_VALID in bits 0 to 5, ERRCODE
in bits [15:8], the rest 0. -/
def Csr.statusWord (c : Csr) : Word :=
  (0#16 ++ c.errcode ++ 0#2 ++ BitVec.ofBool c.ilvValid ++ BitVec.ofBool c.accErr ++ BitVec.ofBool c.cmdOvr
    ++ BitVec.ofBool c.err ++ BitVec.ofBool c.doneFlag ++ BitVec.ofBool c.busy : BitVec (16 + 8 + 2 + 1 + 1 + 1 + 1 + 1 + 1))

/-- A write to STATUS clears each of DONE, ERR, CMD_OVR and ACC_ERR where the written bit is 1 (W1C, R37); the other
fields are read-only. -/
def Csr.writeStatus (v : Word) (c : Csr) : Csr :=
  { c with
    doneFlag := c.doneFlag && !v.getLsbD 1
    err := c.err && !v.getLsbD 2
    cmdOvr := c.cmdOvr && !v.getLsbD 3
    accErr := c.accErr && !v.getLsbD 4 }

/-- ACC_ADDR as the host reads it (R41): WR in bit 31, CAUSE in bits [30:29], ADDR in bits [22:0]. -/
def Csr.accAddrWord (c : Csr) : Word :=
  (BitVec.ofBool c.accWr ++ c.accCause ++ 0#6 ++ c.accAddr : BitVec (1 + 2 + 6 + 23))

/-- The CAUSE field of an illegal access (R41). -/
def AccCause.code : AccCause → BitVec 2
  | .reserved => 0
  | .misaligned => 1
  | .busy => 2

/-- What an illegal host access does (20_memory.md R96): ACC_ADDR takes it if ACC_ERR was 0, then ACC_ERR is set. -/
def Csr.noteAccess (cause : AccCause) (wr : Bool) (a : Addr) (c : Csr) : Csr :=
  if c.accErr then c
  else { c with accErr := true, accAddr := a, accCause := cause.code, accWr := wr }

/-- The byte offset of a register in the CSR region (10_state.md section 3). -/
def Reg.offset : Reg → Nat
  | .id => 0x000
  | .version => 0x004
  | .ctrl => 0x008
  | .status => 0x00C
  | .cmd => 0x010
  | .errInfo => 0x014
  | .accAddr => 0x018
  | .srcLen => 0x01C
  | .dstLen => 0x020
  | .frameLen => 0x024
  | .constraintLen => 0x028
  | .rscTaps => 0x02C
  | .rsc1State => 0x030
  | .rsc2State => 0x034
  | .frHeader => 0x038
  | .crcPoly => 0x03C
  | .crcInit => 0x040
  | .crcXorout => 0x044
  | .crcCfg => 0x048
  | .crcResult => 0x04C
  | .askSpb => 0x050
  | .qpskSps => 0x054
  | .qpskFrameLen => 0x058
  | .qpskNtaps => 0x05C
  | .qpskSmp => 0x060
  | .qpskCtrl => 0x064
  | .lastCmd => 0x068

/-- Every register, in address order. -/
def Reg.all : List Reg :=
  [.id, .version, .ctrl, .status, .cmd, .errInfo, .accAddr, .srcLen, .dstLen, .frameLen, .constraintLen, .rscTaps]
    ++ [.rsc1State, .rsc2State, .frHeader, .crcPoly, .crcInit, .crcXorout, .crcCfg, .crcResult, .askSpb, .qpskSps]
    ++ [.qpskFrameLen, .qpskNtaps, .qpskSmp, .qpskCtrl, .lastCmd]

/-- The register at an address, if one is defined there (10_state.md R34, R59). -/
def regOf (a : Nat) : Option Reg := Reg.all.find? (fun r => decide (r.offset = a))

/-- The RW configuration registers, whose writes are refused while BUSY (10_state.md R35, R57). -/
def Reg.isConfig : Reg → Bool
  | .srcLen | .frameLen | .constraintLen | .rscTaps | .frHeader | .crcPoly | .crcInit | .crcXorout | .crcCfg | .askSpb
  | .qpskSps | .qpskFrameLen | .qpskNtaps | .qpskSmp | .qpskCtrl => true
  | .id | .version | .ctrl | .status | .cmd | .errInfo | .accAddr | .dstLen | .rsc1State | .rsc2State | .crcResult
  | .lastCmd => false

/-- What a host read of a register returns (10_state.md R34 to R58): its fields at their places, reserved bits 0. CTRL
reads SOFT_RESET as 0 (R38); CMD reads 0 (R39). -/
def Csr.readReg (r : Reg) (c : Csr) : Word :=
  match r with
  | .id => Config.idValue
  | .version => Config.versionValue
  | .ctrl => (0#31 ++ BitVec.ofBool c.irqEn : BitVec (31 + 1))
  | .status => c.statusWord
  | .cmd => 0
  | .errInfo => c.errInfo
  | .accAddr => c.accAddrWord
  | .srcLen => c.srcLen
  | .dstLen => c.dstLen
  | .frameLen => c.frameLen.setWidth 32
  | .constraintLen => c.constraintLen.setWidth 32
  | .rscTaps => (0#20 ++ c.tapB ++ 0#4 ++ c.tapA : BitVec (20 + 4 + 4 + 4))
  | .rsc1State => c.rsc1State.setWidth 32
  | .rsc2State => c.rsc2State.setWidth 32
  | .frHeader => c.frHeader.setWidth 32
  | .crcPoly => c.crcPoly.setWidth 32
  | .crcInit => c.crcInit.setWidth 32
  | .crcXorout => c.crcXorout.setWidth 32
  | .crcCfg => (0#30 ++ BitVec.ofBool c.refout ++ BitVec.ofBool c.refin : BitVec (30 + 1 + 1))
  | .crcResult => c.crcResult.setWidth 32
  | .askSpb => c.askSpb.setWidth 32
  | .qpskSps => c.qpskSps.setWidth 32
  | .qpskFrameLen => c.qpskFrameLen.setWidth 32
  | .qpskNtaps => c.qpskNtaps.setWidth 32
  | .qpskSmp => (0#6 ++ c.smpMode ++ 0#3 ++ c.smpOffset : BitVec (6 + 2 + 3 + 21))
  | .qpskCtrl => (0#31 ++ BitVec.ofBool c.noiseEn : BitVec (31 + 1))
  | .lastCmd => c.lastCmd

/-- What a host write stores in the register file: the fields of a configuration register as written, legal or not
(10_state.md R34), FRAME_LEN also clearing ILV_VALID (R44); W1C for STATUS (R37); nothing for a read-only register
(R34). CTRL and CMD act on the whole block and are `writeCtrl` and `writeCmd`. -/
def Csr.writeReg (r : Reg) (v : Word) (c : Csr) : Csr :=
  match r with
  | .status => c.writeStatus v
  | .srcLen => { c with srcLen := v }
  | .frameLen => { c with frameLen := v.extractLsb' 0 16, ilvValid := false }
  | .constraintLen => { c with constraintLen := v.extractLsb' 0 5 }
  | .rscTaps => { c with tapA := v.extractLsb' 0 4, tapB := v.extractLsb' 8 4 }
  | .frHeader => { c with frHeader := v.extractLsb' 0 16 }
  | .crcPoly => { c with crcPoly := v.extractLsb' 0 16 }
  | .crcInit => { c with crcInit := v.extractLsb' 0 16 }
  | .crcXorout => { c with crcXorout := v.extractLsb' 0 16 }
  | .crcCfg => { c with refin := v.getLsbD 0, refout := v.getLsbD 1 }
  | .askSpb => { c with askSpb := v.extractLsb' 0 16 }
  | .qpskSps => { c with qpskSps := v.extractLsb' 0 16 }
  | .qpskFrameLen => { c with qpskFrameLen := v.extractLsb' 0 21 }
  | .qpskNtaps => { c with qpskNtaps := v.extractLsb' 0 11 }
  | .qpskSmp => { c with smpOffset := v.extractLsb' 0 21, smpMode := v.extractLsb' 24 2 }
  | .qpskCtrl => { c with noiseEn := v.getLsbD 0 }
  | .id | .version | .ctrl | .cmd | .errInfo | .accAddr | .dstLen | .rsc1State | .rsc2State | .crcResult | .lastCmd => c

end Sys2Proof.Machine
end

