-- ==== Sys2Proof/Machine/Bus.lean ====
section
/-! DEFINITION. Host accesses to the block window (20_memory.md R96, R97) and the events of the step. -/

namespace Sys2Proof.Machine

/-- Why a host access is illegal, if it is (20_memory.md R96): MISALIGNED wins over RESERVED, RESERVED over BUSY. -/
def accessCause (s : State) (wr : Bool) (a : Addr) : Option AccCause :=
  if a.toNat % 4 ≠ 0 then some .misaligned
  else
    match regOf a.toNat with
    | some r => if s.csr.busy && wr && r.isConfig then some .busy else none
    | none =>
      match regionOf a.toNat with
      | some _ => if s.csr.busy then some .busy else none
      | none => some .reserved

/-- An illegal access only notes itself in ACC_ADDR and ACC_ERR (R96). -/
def noteIllegal (cause : AccCause) (wr : Bool) (a : Addr) (s : State) : State :=
  { s with csr := s.csr.noteAccess cause wr a }

/-- The value a legal host read returns: the register (10_state.md), or the four bytes at the address (20_memory.md R93,
R97). -/
def busValue (s : State) (a : Addr) : Word :=
  match regOf a.toNat with
  | some r => s.csr.readReg r
  | none => BitVec.ofNat 32 (leNat (s.readBytes a.toNat 4))

/-- A write to CTRL (10_state.md R38): SOFT_RESET in bit 1 resets the block and the rest of the word is ignored; else
bit 0 is IRQ_EN. -/
def writeCtrl (v : Word) (s : State) : State :=
  if v.getLsbD 1 then softReset s else { s with csr := { s.csr with irqEn := v.getLsbD 0 } }

/-- A write to CMD: accepted in IDLE, dropped while BUSY (60_exceptions.md R335, R337). -/
def writeCmd (v : Word) (s : State) : State := if s.csr.busy then dropCmd s else acceptCmd v s

/-- A legal write to a RAM region: the four bytes at the address, least significant first (20_memory.md R93, R97); in
the ILV region it also clears ILV_VALID (42_turbo_encoder.md R194). -/
def writeRam (a : Addr) (v : Word) (s : State) : State :=
  { s with
    ram := s.ram.write a.toNat (leBytes 4 v.toNat)
    csr := if Region.ilv.contains a.toNat then { s.csr with ilvValid := false } else s.csr }

/-- A legal host write, by what stands at the address. -/
def busStore (a : Addr) (v : Word) (s : State) : State :=
  match regOf a.toNat with
  | some .ctrl => writeCtrl v s
  | some .cmd => writeCmd v s
  | some r => { s with csr := s.csr.writeReg r v }
  | none => writeRam a v s

/-- One host read (20_memory.md R96): the value, with no side effect; an illegal read returns 0 and notes itself. The
value is recorded (30_encoding.md R138; log entry 10). -/
def hostRead (a : Addr) (s : State) : State :=
  match accessCause s false a with
  | some cause => { noteIllegal cause false a s with reads := 0 :: s.reads }
  | none => { s with reads := busValue s a :: s.reads }

/-- One host write (20_memory.md R96): an illegal write changes nothing but notes itself. -/
def hostWrite (a : Addr) (v : Word) (s : State) : State :=
  match accessCause s true a with
  | some cause => noteIllegal cause true a s
  | none => busStore a v s

/-- The block-relative address of a host physical address that falls in the window (20_memory.md R90; log entry 9). -/
def blockAddr (phys : Nat) : Option Addr :=
  if Config.pslcBase ≤ phys ∧ phys < Config.pslcBase + 0x800000 then some (BitVec.ofNat 23 (phys - Config.pslcBase))
  else none

end Sys2Proof.Machine
end

