-- ==== Sys2Proof/Machine/F64.lean ====
section
/-! DEFINITION. IEEE 754 binary64 arithmetic with round-to-nearest-even on 64-bit patterns (00_scope.md R14). Every
finite value is a whole number of units of 2^-1074 (the smallest subnormal), so sums are exact integers of units and
products are exact multiples of 2^-2148; one function rounds both. -/

namespace Sys2Proof

/-- The biased exponent, bits [62:52]. -/
def F64.expField (x : F64) : Nat := (x.extractLsb' 52 11).toNat

/-- The fraction, bits [51:0]. -/
def F64.fracField (x : F64) : Nat := (x.extractLsb' 0 52).toNat

/-- The sign bit, bit 63. -/
def F64.signBit (x : F64) : Bool := x.getLsbD 63

def F64.isNaN (x : F64) : Bool := decide (F64.expField x = 2047) && decide (F64.fracField x ≠ 0)

def F64.isInf (x : F64) : Bool := decide (F64.expField x = 2047) && decide (F64.fracField x = 0)

def F64.isFinite (x : F64) : Bool := decide (F64.expField x ≠ 2047)

/-- `ZERO = +0.0` (R14). -/
def F64.zero : F64 := 0x0000000000000000
/-- `ONE = 1.0` (R14). -/
def F64.one : F64 := 0x3FF0000000000000
/-- `TWO = 2.0` (R14). -/
def F64.two : F64 := 0x4000000000000000
/-- `QUARTER = 0.25` (R14). -/
def F64.quarter : F64 := 0x3FD0000000000000
/-- `A`, the binary64 value of 1.0 ⊘ RN(√2) (R14). -/
def F64.ampA : F64 := 0x3FE6A09E667F3BCC
/-- The NaN the datapath carries between operations. Its sign and payload reach no output: comparisons see only that it
is a NaN, and a NaN that is written out gets free bits (`F64.released`; log entry 5). -/
def F64.nan : F64 := 0x7FF8000000000000

/-- The pattern with the given sign bit and the given low 63 bits. -/
def F64.withSign (neg : Bool) (mag : Nat) : F64 := BitVec.ofNat 64 ((if neg then 0x8000000000000000 else 0) + mag)

/-- The magnitude pattern of infinity. -/
def F64.infMag : Nat := 0x7FF0000000000000

/-- The magnitude of a finite value, in units of 2^-1074: the fraction itself for a zero or a subnormal, else the
significand with its hidden bit, shifted by the exponent. (For an infinity the formula gives 2^2098, which is above every
finite magnitude.) -/
def F64.units (x : F64) : Nat :=
  if F64.expField x = 0 then F64.fracField x
  else (0x10000000000000 + F64.fracField x) <<< (F64.expField x - 1)

/-- The value in units of 2^-1074, signed. -/
def F64.value (x : F64) : Int := if F64.signBit x then -(F64.units x : Int) else (F64.units x : Int)

/-- `m` divided by 2^`d`, rounded to the nearest integer, ties to the even one. -/
def F64.roundShift (m d : Nat) : Nat :=
  let q := m >>> d
  let r := 2 * (m % (1 <<< d))
  if 1 <<< d < r ∨ (r = 1 <<< d ∧ q % 2 = 1) then q + 1 else q

/-- How many low bits of a magnitude of `m`/2^`sh` units lie below the last place of its binary64 neighbourhood, beyond
the `sh` fraction bits: 0 in the subnormal range and the lowest normal binade. -/
def F64.lastPlace (m sh : Nat) : Nat := m.log2 - (sh + 52)

/-- The binary64 value nearest to ±`m`/2^`sh` units of 2^-1074, ties to even, overflowing to infinity (R14). The rounded
significand is added to the exponent field, so a carry out of the significand moves to the next exponent by itself. -/
def F64.round (neg : Bool) (m sh : Nat) : F64 :=
  let t := F64.lastPlace m sh
  let mag := t * 0x10000000000000 + F64.roundShift m (sh + t)
  F64.withSign neg (if F64.infMag ≤ mag then F64.infMag else mag)

/-- `neg(x)`: flips the sign bit, exactly (R14). -/
def F64.neg (x : F64) : F64 := x ^^^ 0x8000000000000000

/-- `abs(x)`: clears the sign bit, exactly (R14). -/
def F64.abs (x : F64) : F64 := x &&& 0x7FFFFFFFFFFFFFFF

/-- `a ⊕ b` (R14): one rounded IEEE 754 addition. An exact zero sum is −0.0 only when both operands are −0.0. -/
def F64.add (a b : F64) : F64 :=
  if F64.isNaN a || F64.isNaN b then F64.nan
  else if F64.isInf a then (if F64.isInf b && F64.signBit a != F64.signBit b then F64.nan else a)
  else if F64.isInf b then b
  else
    let v := F64.value a + F64.value b
    if v = 0 then F64.withSign (F64.signBit a && F64.signBit b) 0
    else F64.round (decide (v < 0)) v.natAbs 0

/-- `a ⊖ b` (R14): IEEE 754 subtraction is the addition of the negated operand. -/
def F64.sub (a b : F64) : F64 := F64.add a (F64.neg b)

/-- `a ⊗ b` (R14): one rounded IEEE 754 multiplication. -/
def F64.mul (a b : F64) : F64 :=
  let neg := F64.signBit a != F64.signBit b
  if F64.isNaN a || F64.isNaN b then F64.nan
  else if F64.isInf a || F64.isInf b then
    (if F64.units a = 0 ∨ F64.units b = 0 then F64.nan else F64.withSign neg F64.infMag)
  else
    let m := F64.units a * F64.units b
    if m = 0 then F64.withSign neg 0 else F64.round neg m 1074

/-- `a < b`, the IEEE comparison: false when an operand is a NaN (R14). -/
def F64.lt (a b : F64) : Bool := !F64.isNaN a && !F64.isNaN b && decide (F64.value a < F64.value b)

/-- `a > b`, the IEEE comparison (R14). -/
def F64.gt (a b : F64) : Bool := F64.lt b a

/-- `f64(n)` of an integer (44_ask_modem.md R252, `f64(SPB)`): exact for the values the block converts. -/
def F64.ofNat (n : Nat) : F64 := if n = 0 then F64.zero else F64.round false (n <<< 1074) 0

/-- The quiet NaN whose sign is bit 51 of `free` and whose payload is bits [50:0] of `free` (R14: "any quiet NaN"). -/
def F64.quietNaN (free : BitVec 52) : F64 := (free.extractLsb' 51 1 ++ 0xFFF#12 ++ free.extractLsb' 0 51 : BitVec (1 + 12 + 51))

/-- What a command writes out for a computed value: the value itself, or for a NaN a quiet NaN with the free bits
given (R14, 93_implementation_defined.md U1; log entry 5). -/
def F64.released (free : BitVec 52) (x : F64) : F64 := if F64.isNaN x then F64.quietNaN free else x

end Sys2Proof
end

