-- ==== Sys2Proof/Machine/Operands.lean ====
section
/-! DEFINITION. How a command reads its operands and lays out its outputs (00_scope.md R11, 30_encoding.md R134 and
R135), and the checks that several commands share (60_exceptions.md R331, R332). -/

namespace Sys2Proof.Machine

/-! Elements of the regions (00_scope.md R11). -/

/-- `Src8(i)`. -/
def State.src8 (s : State) (i : Nat) : Byte := s.readByte (Region.src.base + i)

/-- `Dst8(i)` as it stands. -/
def State.dst8 (s : State) (i : Nat) : Byte := s.readByte (Region.dst.base + i)

/-- Binary64 element `i` of a region: eight bytes at `8·i`, little-endian (20_memory.md R93). -/
def State.f64At (s : State) (r : Region) (i : Nat) : F64 := BitVec.ofNat 64 (memRead r (8 * i) 8 s)

/-- `Src64(i)`. -/
def State.src64 (s : State) (i : Nat) : F64 := s.f64At .src i

/-- `Ilv(k)`: four bytes at `4·k`, an unsigned integer (20_memory.md R101). -/
def State.ilvEntry (s : State) (k : Nat) : Nat := memRead .ilv (4 * k) 4 s

/-- `SRC_LEN`. -/
def State.srcLen (s : State) : Nat := s.csr.srcLen.toNat

/-- `N = FRAME_LEN.N`. -/
def State.frameN (s : State) : Nat := s.csr.frameLen.toNat

/-- `Src8(0 .. n−1)`. -/
def State.srcBytes (s : State) (n : Nat) : List Byte := (List.range n).map s.src8

/-- `Src64(0 .. n−1)`. -/
def State.srcF64s (s : State) (n : Nat) : List F64 := (List.range n).map s.src64

/-- Entries `0 .. n−1` of a binary64 table. -/
def State.table (s : State) (r : Region) (n : Nat) : List F64 := (List.range n).map (s.f64At r)

/-- π as the ILV table holds it: entries `0 .. N−1` (20_memory.md R101). -/
def State.perm (s : State) : List Nat := (List.range s.frameN).map s.ilvEntry

/-! Bits and bit cells (00_scope.md R13). -/

/-- The bit a binary cell holds. -/
def cellBit (b : Byte) : Bool := decide (b = 1)

/-- The cell that holds a bit. -/
def bitCell (b : Bool) : Byte := if b then 1 else 0

/-- The bits of a sequence of binary cells. -/
def cellsToBits (cells : List Byte) : List Bool := cells.map cellBit

/-- The cells of a bit sequence. -/
def bitsToCells (bits : List Bool) : List Byte := bits.map bitCell

/-- The bits of `Src8(0 .. n−1)`. -/
def State.srcBits (s : State) (n : Nat) : List Bool := cellsToBits (s.srcBytes n)

/-- Whether a cell's value is neither 0x00 nor 0x01 (R13). -/
def nonBinary (b : Byte) : Bool := decide (1 < b.toNat)

/-- The least index of a non-binary cell (60_exceptions.md R330). -/
def firstNonBinary (cells : List Byte) : Option Nat := cells.findIdx? nonBinary

/-- The bytes of a binary64 sequence, each element little-endian (20_memory.md R93). -/
def f64Bytes (xs : List F64) : List Byte := xs.flatMap (fun x => leBytes 8 x.toNat)

/-- A computed binary64 output sequence as it is written out: element `i`, if it is a NaN, with free bits of this
completion and this index (00_scope.md R14; log entry 5). -/
def releasedF64s (s : State) (xs : List F64) : List F64 :=
  xs.mapIdx (fun i x => F64.released (Config.nanBits s.completions i) x)

/-! Checks (60_exceptions.md R331, R332). -/

/-- An illegal configuration register: ConfigError with the register's offset (R332). -/
def configError (r : Reg) : CmdError := ⟨.configError, BitVec.ofNat 32 r.offset⟩

/-- FRAME_LEN is legal: 1 ≤ N ≤ N_MAX (R332). -/
def Csr.frameLenLegal (c : Csr) : Bool := decide (1 ≤ c.frameLen.toNat) && decide (c.frameLen.toNat ≤ Config.nMax)

/-- CONSTRAINT_LEN is legal: K_MIN ≤ K ≤ K_MAX (R332). -/
def Csr.constraintLegal (c : Csr) : Bool :=
  decide (Config.kMin ≤ c.constraintLen.toNat) && decide (c.constraintLen.toNat ≤ Config.kMax)

/-- RSC_TAPS is legal against the current K: TAP_A ≠ TAP_B, both at most K − 2 (R332). -/
def Csr.tapsLegal (c : Csr) : Bool :=
  decide (c.tapA ≠ c.tapB) && decide (c.tapA.toNat + 2 ≤ c.constraintLen.toNat)
    && decide (c.tapB.toNat + 2 ≤ c.constraintLen.toNat)

/-- ASK_SPB is legal: 1 ≤ SPB ≤ ACAR_MAX (R332). -/
def Csr.spbLegal (c : Csr) : Bool := decide (1 ≤ c.askSpb.toNat) && decide (c.askSpb.toNat ≤ Config.acarMax)

/-- The report of the first non-binary cell, if there is one (stage 7 of R331). -/
def nonBinaryError (kind : ErrKind) (cells : List Byte) : Option CmdError :=
  (firstNonBinary cells).map (fun i => ⟨kind, BitVec.ofNat 32 i⟩)

/-- ILV_VALID = 0 at stage 3 (R331, 42_turbo_encoder.md R194). -/
def ilvInvalidError : CmdError := ⟨.interleaverInvalid, 0xFFFFFFFF⟩

end Sys2Proof.Machine
end

