-- ==== Sys2Proof/Machine/Ask.lean ====
section
/-! DEFINITION. The ASK modem (44_ask_modem.md). -/

namespace Sys2Proof.Machine

/-- `SPB = ASK_SPB.SPB`. -/
def State.spb (s : State) : Nat := s.csr.askSpb.toNat

/-- The burst of one bit: `amp ⊗ ACar(n)`, amplitude 1.0 for a 1 and +0.0 for a 0 (44_ask_modem.md R251). -/
def askBurst (carrier : List F64) (b : Bool) : List F64 :=
  carrier.map (fun c => F64.mul (if b then F64.one else F64.zero) c)

/-- The bursts of a bit sequence, one after the other (R251). -/
def askModulate (carrier : List F64) (bits : List Bool) : List F64 := bits.flatMap (askBurst carrier)

/-- The checks of AMOD, in order (R251); the capacity product is exact (90_conflicts.md C10). -/
def amodCheck (s : State) : Option CmdError :=
  if ¬ s.csr.spbLegal then some (configError .askSpb)
  else if Config.bufBytes < s.srcLen then some ⟨.capacityExceeded, s.csr.srcLen⟩
  else if Config.bufBytes < 8 * s.srcLen * s.spb then some ⟨.capacityExceeded, sat32 (s.srcLen * s.spb)⟩
  else nonBinaryError .invalidBit (s.srcBytes s.srcLen)

/-- What AMOD does (R251). -/
def amodEffect (s : State) : Effect :=
  ⟨f64Bytes (releasedF64s s (askModulate (s.table .acar s.spb) (s.srcBits s.srcLen))),
    { s.csr with dstLen := BitVec.ofNat 32 (s.srcLen * s.spb) }⟩

/-- `AMOD` (R251). -/
def execAmod (s : State) : StepResult := .next (complete (amodCheck s) amodEffect s)

/-- The correlation of a segment with the carrier: `acc ⊕ abs(r ⊗ ACar(n))` from +0.0 in increasing `n` (R252). -/
def askCorrelate (carrier segment : List F64) : F64 :=
  (List.zipWith (fun r c => F64.abs (F64.mul r c)) segment carrier).foldl F64.add F64.zero

/-- The threshold `QUARTER ⊗ f64(SPB)` (R252). -/
def askThreshold (spb : Nat) : F64 := F64.mul F64.quarter (F64.ofNat spb)

/-- The decision of one segment: 1 iff its correlation exceeds the threshold (R252). -/
def askDecide (carrier segment : List F64) (spb : Nat) : Bool := F64.gt (askCorrelate carrier segment) (askThreshold spb)

/-- The checks of ADEM, in order (R252). -/
def ademCheck (s : State) : Option CmdError :=
  if ¬ s.csr.spbLegal then some (configError .askSpb)
  else if s.srcLen % s.spb ≠ 0 then some ⟨.segmentAlignment, s.csr.srcLen⟩
  else if Config.bufBytes < 8 * s.srcLen then some ⟨.capacityExceeded, s.csr.srcLen⟩
  else none

/-- Segment `j` of the received samples: elements `j·SPB .. j·SPB + SPB − 1` of SRC (R252). -/
def State.askSegment (s : State) (j : Nat) : List F64 := (List.range s.spb).map (fun n => s.src64 (j * s.spb + n))

/-- What ADEM does (R252). -/
def ademEffect (s : State) : Effect :=
  ⟨bitsToCells ((List.range (s.srcLen / s.spb)).map
      (fun j => askDecide (s.table .acar s.spb) (s.askSegment j) s.spb)),
    { s.csr with dstLen := BitVec.ofNat 32 (s.srcLen / s.spb) }⟩

/-- `ADEM` (R252). -/
def execAdem (s : State) : StepResult := .next (complete (ademCheck s) ademEffect s)

end Sys2Proof.Machine
end

