-- ==== Sys2Proof/Machine/BitFrame.lean ====
section
/-! DEFINITION. The BitFrame conversions (41_bitframe.md). -/

namespace Sys2Proof.Machine

/-- Eight bits as a byte, the first one bit 7 (41_bitframe.md R170). -/
def byteOfBits (b0 b1 b2 b3 b4 b5 b6 b7 : Bool) : Byte :=
  (BitVec.ofBool b0 ++ BitVec.ofBool b1 ++ BitVec.ofBool b2 ++ BitVec.ofBool b3 ++ BitVec.ofBool b4 ++ BitVec.ofBool b5
    ++ BitVec.ofBool b6 ++ BitVec.ofBool b7 : BitVec (1 + 1 + 1 + 1 + 1 + 1 + 1 + 1))

/-- `pack(b)`: bits to bytes, most significant first (R170). It is used on sequences whose length is a multiple of 8; a
shorter rest would be dropped. -/
def packBits : List Bool → List Byte
  | b0 :: b1 :: b2 :: b3 :: b4 :: b5 :: b6 :: b7 :: rest => byteOfBits b0 b1 b2 b3 b4 b5 b6 b7 :: packBits rest
  | _ => []

/-- The eight bits of a byte, bit 7 first (R171). -/
def byteBits (y : Byte) : List Bool :=
  [y.getLsbD 7, y.getLsbD 6, y.getLsbD 5, y.getLsbD 4, y.getLsbD 3, y.getLsbD 2, y.getLsbD 1, y.getLsbD 0]

/-- `unpack(y)`: bytes to bits, most significant first (R171). -/
def unpackBytes (y : List Byte) : List Bool := y.flatMap byteBits

/-- The checks of PACK, in order (R172). CRC has the same three (46_framer.md R301). -/
def packCheck (s : State) : Option CmdError :=
  if s.srcLen % 8 ≠ 0 then some ⟨.unalignedPayload, s.csr.srcLen⟩
  else if Config.bufBytes < s.srcLen then some ⟨.capacityExceeded, s.csr.srcLen⟩
  else nonBinaryError .nonBinaryInput (s.srcBytes s.srcLen)

/-- What PACK does (R172). -/
def packEffect (s : State) : Effect :=
  ⟨packBits (s.srcBits s.srcLen), { s.csr with dstLen := BitVec.ofNat 32 (s.srcLen / 8) }⟩

/-- `PACK` (R172). -/
def execPack (s : State) : StepResult := .next (complete (packCheck s) packEffect s)

/-- The checks of UNPACK, in order (R174). -/
def unpackCheck (s : State) : Option CmdError :=
  if Config.bufBytes < s.srcLen then some ⟨.capacityExceeded, s.csr.srcLen⟩
  else if Config.bufBytes < 8 * s.srcLen then some ⟨.capacityExceeded, sat32 (8 * s.srcLen)⟩
  else none

/-- What UNPACK does (R174). -/
def unpackEffect (s : State) : Effect :=
  ⟨bitsToCells (unpackBytes (s.srcBytes s.srcLen)), { s.csr with dstLen := BitVec.ofNat 32 (8 * s.srcLen) }⟩

/-- `UNPACK` (R174). -/
def execUnpack (s : State) : StepResult := .next (complete (unpackCheck s) unpackEffect s)

end Sys2Proof.Machine
end

