-- ==== Sys2Proof/Machine/Control.lean ====
section
/-! DEFINITION. The control command (40_control.md). -/

namespace Sys2Proof.Machine

/-- What NOP does (40_control.md R150): no data effect, DST_LEN ← 0. -/
def nopEffect (s : State) : Effect := ⟨[], { s.csr with dstLen := 0 }⟩

/-- `NOP` (40_control.md R150): no check of its own; it always completes. -/
def execNop (s : State) : StepResult :=
  .next (complete none nopEffect s)

end Sys2Proof.Machine
end

