-- ==== Sys2Proof/Machine/Framer.lean ====
section
/-! DEFINITION. CRC-16 and the protocol framer and parser (46_framer.md). -/

namespace Sys2Proof.Machine

/-- The parameters of the CRC (46_framer.md R300). -/
structure CrcParams where
  poly : BitVec 16
  init : BitVec 16
  xorout : BitVec 16
  refin : Bool
  refout : Bool
  deriving DecidableEq, Repr

/-- The CRC registers as parameters (R300). -/
def Csr.crcParams (c : Csr) : CrcParams := ⟨c.crcPoly, c.crcInit, c.crcXorout, c.refin, c.refout⟩

/-- One shift of the CRC register (R300). -/
def crcShift (poly reg : BitVec 16) : BitVec 16 := if reg.getLsbD 15 then (reg <<< 1) ^^^ poly else reg <<< 1

/-- One byte into the CRC register: eight shifts (R300). -/
def crcByte (p : CrcParams) (reg : BitVec 16) (y : Byte) : BitVec 16 :=
  let d := if p.refin then y.reverse else y
  Nat.repeat (crcShift p.poly) 8 (reg ^^^ (d.setWidth 16 <<< 8))

/-- `Crc16(y)` (R300). -/
def crc16 (p : CrcParams) (y : List Byte) : BitVec 16 :=
  let reg := y.foldl (crcByte p) p.init
  (if p.refout then reg.reverse else reg) ^^^ p.xorout

/-- A 16-bit field in a frame: high byte first (R305). -/
def beBytes (v : BitVec 16) : List Byte := [v.extractLsb' 8 8, v.extractLsb' 0 8]

/-- The 16-bit field at a byte offset of a frame: high byte first (R305). -/
def beField (f : List Byte) (at_ : Nat) : BitVec 16 :=
  (f.getD at_ 0 ++ f.getD (at_ + 1) 0 : BitVec (8 + 8))

/-- The checks of CRC, in order (46_framer.md R301). -/
def crcCheck (s : State) : Option CmdError :=
  if s.srcLen % 8 ≠ 0 then some ⟨.unalignedPayload, s.csr.srcLen⟩
  else if Config.bufBytes < s.srcLen then some ⟨.capacityExceeded, s.csr.srcLen⟩
  else nonBinaryError .nonBinaryInput (s.srcBytes s.srcLen)

/-- What CRC does (R301): the CRC-16 of the packed cells; DST is not written. -/
def crcEffect (s : State) : Effect :=
  ⟨[], { s.csr with crcResult := crc16 s.csr.crcParams (packBits (s.srcBits s.srcLen)), dstLen := 0 }⟩

/-- `CRC` (R301). -/
def execCrc (s : State) : StepResult := .next (complete (crcCheck s) crcEffect s)

/-- Header, length and payload of a frame: what its CRC covers (R302, R305). -/
def frameBody (hdr : BitVec 16) (payload : List Byte) : List Byte :=
  beBytes hdr ++ beBytes (BitVec.ofNat 16 payload.length) ++ payload

/-- A whole frame: the body and its CRC, high byte first (R302, R305). -/
def buildFrame (p : CrcParams) (hdr : BitVec 16) (payload : List Byte) : List Byte :=
  frameBody hdr payload ++ beBytes (crc16 p (frameBody hdr payload))

/-- The checks of FBUILD, in order (R302). -/
def fbuildCheck (s : State) : Option CmdError :=
  if s.srcLen % 8 ≠ 0 then some ⟨.unalignedPayload, s.csr.srcLen⟩
  else if Config.payloadMax < s.srcLen / 8 then some ⟨.payloadTooLong, sat32 (s.srcLen / 8)⟩
  else nonBinaryError .nonBinaryInput (s.srcBytes s.srcLen)

/-- What FBUILD does (R302). -/
def fbuildEffect (s : State) : Effect :=
  let payload := packBits (s.srcBits s.srcLen)
  ⟨bitsToCells (unpackBytes (buildFrame s.csr.crcParams s.csr.frHeader payload)),
    { s.csr with
      crcResult := crc16 s.csr.crcParams (frameBody s.csr.frHeader payload)
      dstLen := BitVec.ofNat 32 (s.srcLen + 48) }⟩

/-- `FBUILD` (R302). -/
def execFbuild (s : State) : StepResult := .next (complete (fbuildCheck s) fbuildEffect s)

/-- The CRC computed over a received frame less its last two bytes (R303 check 7, 90_conflicts.md C7). -/
def receivedCrc (p : CrcParams) (f : List Byte) : BitVec 16 := crc16 p (f.take (f.length - 2))

/-- The content checks of FPARSE on the received bytes, in order (R303 checks 4 to 7). -/
def frameCheck (p : CrcParams) (hdr : BitVec 16) (f : List Byte) : Option CmdError :=
  if f.length < 6 then some ⟨.incompleteFrame, 0x80000000 ||| BitVec.ofNat 32 f.length⟩
  else if beField f 0 ≠ hdr then some ⟨.headerMismatch, (beField f 0).setWidth 32⟩
  else if f.length - 6 < (beField f 2).toNat then some ⟨.incompleteFrame, (beField f 2).setWidth 32⟩
  else if receivedCrc p f ≠ beField f (f.length - 2) then
    some ⟨.crcMismatch, (beField f (f.length - 2) ++ receivedCrc p f : BitVec (16 + 16))⟩
  else none

/-- The checks of FPARSE, in order (R303). -/
def fparseCheck (s : State) : Option CmdError :=
  if s.srcLen % 8 ≠ 0 then some ⟨.unalignedPayload, s.csr.srcLen⟩
  else if Config.bufBytes < s.srcLen then some ⟨.capacityExceeded, s.csr.srcLen⟩
  else
    nonBinaryError .nonBinaryInput (s.srcBytes s.srcLen)
      <|> frameCheck s.csr.crcParams s.csr.frHeader (packBits (s.srcBits s.srcLen))

/-- The declared payload of a received frame: `F[4 .. 4 + Ld)` (R303). -/
def framePayload (f : List Byte) : List Byte := (f.drop 4).take (beField f 2).toNat

/-- What FPARSE does (R303). -/
def fparseEffect (s : State) : Effect :=
  let f := packBits (s.srcBits s.srcLen)
  ⟨bitsToCells (unpackBytes (framePayload f)),
    { s.csr with
      crcResult := receivedCrc s.csr.crcParams f
      dstLen := BitVec.ofNat 32 (8 * (beField f 2).toNat) }⟩

/-- `FPARSE` (R303). -/
def execFparse (s : State) : StepResult := .next (complete (fparseCheck s) fparseEffect s)

end Sys2Proof.Machine
end

