-- ==== Sys2Proof/Machine/Qpsk.lean ====
section
/-! DEFINITION. The QPSK modem with pulse shaping (45_qpsk_modem.md). -/

namespace Sys2Proof.Machine

/-! The configured sizes (45_qpsk_modem.md, notation). -/

/-- `SPS = QPSK_SPS.SPS`. -/
def State.sps (s : State) : Nat := s.csr.qpskSps.toNat
/-- `FL = QPSK_FRAME_LEN.FL`. -/
def State.fl (s : State) : Nat := s.csr.qpskFrameLen.toNat
/-- `M = FL / 2`, the number of symbols. -/
def State.symbols (s : State) : Nat := s.fl / 2
/-- `NT = QPSK_NTAPS.NT`. -/
def State.nt (s : State) : Nat := s.csr.qpskNtaps.toNat
/-- `Ls = M·SPS + NT − 1`, the signal length. -/
def State.signalLen (s : State) : Nat := s.symbols * s.sps + s.nt - 1
/-- `Lw = Ls + NT − 1`, the matched-filter output length. -/
def State.matchedLen (s : State) : Nat := s.signalLen + s.nt - 1

/-! Signal processing. -/

/-- `A` or `−A`, by the sign bit given (R270). -/
def qpskLevel (negative : Bool) : F64 := if negative then F64.neg F64.ampA else F64.ampA

/-- The real parts of the symbols of a bit sequence: `−A` iff `b1 = 1` (R270). -/
def symbolsRe : List Bool → List F64
  | _ :: b1 :: rest => qpskLevel b1 :: symbolsRe rest
  | _ => []

/-- The imaginary parts of the symbols of a bit sequence: `−A` iff `b0 = 1` (R270). -/
def symbolsIm : List Bool → List F64
  | b0 :: _ :: rest => qpskLevel b0 :: symbolsIm rest
  | _ => []

/-- Upsampling: each value followed by `SPS − 1` zeros (R273). -/
def upsample (sps : Nat) (x : List F64) : List F64 := x.flatMap (fun v => v :: List.replicate (sps - 1) F64.zero)

/-- Element `n` of the full linear convolution: the taps in increasing index, terms outside the sequence skipped,
accumulated from +0.0 (R274); `j` is the index of the first tap of the list. -/
def convAcc (x : List F64) (n : Nat) : List F64 → Nat → F64 → F64
  | [], _, acc => acc
  | h :: hs, j, acc =>
    convAcc x n hs (j + 1)
      (if j ≤ n ∧ n - j < x.length then F64.add acc (F64.mul (x.getD (n - j) F64.zero) h) else acc)

/-- `y[n]` of `Conv(x, |x|)` (R274). -/
def convAt (taps x : List F64) (n : Nat) : F64 := convAcc x n taps 0 F64.zero

/-- `Conv(x, |x|)`, of length `|x| + NT − 1` (R274). -/
def conv (taps x : List F64) : List F64 := (List.range (x.length + taps.length - 1)).map (convAt taps x)

/-- Mixing with the carrier: `(yr ⊗ cos) ⊖ (yi ⊗ sin)` (R275). -/
def mixUp (yr yi c sn : List F64) : List F64 :=
  List.zipWith F64.sub (List.zipWith F64.mul yr c) (List.zipWith F64.mul yi sn)

/-- The modulated signal of a frame (R272). -/
def qpskModulate (taps c sn : List F64) (sps : Nat) (bits : List Bool) : List F64 :=
  mixUp (conv taps (upsample sps (symbolsRe bits))) (conv taps (upsample sps (symbolsIm bits))) c sn

/-! Checks. -/

/-- Configuration checks 1 to 3, in order (R271). -/
def qpskConfigCheck (s : State) : Option CmdError :=
  if s.sps = 0 then some (configError .qpskSps)
  else if s.fl % 2 = 1 ∨ s.fl = 0 then some (configError .qpskFrameLen)
  else if s.nt = 0 ∨ Config.tapMax < s.nt then some (configError .qpskNtaps)
  else none

/-- The checks of QMOD, in order (R272). -/
def qmodCheck (s : State) : Option CmdError :=
  qpskConfigCheck s <|>
    if s.srcLen ≠ s.fl then some ⟨.frameLengthMismatch, s.csr.srcLen⟩
    else if Config.bufBytes < s.srcLen then some ⟨.capacityExceeded, s.csr.srcLen⟩
    else if Config.qcarMax < s.signalLen then some ⟨.capacityExceeded, sat32 s.signalLen⟩
    else nonBinaryError .nonBinaryInput (s.srcBytes s.srcLen)

/-- What QMOD does (R272). -/
def qmodEffect (s : State) : Effect :=
  ⟨f64Bytes (releasedF64s s (qpskModulate (s.table .tap s.nt) (s.table .qcos s.signalLen)
      (s.table .qsin s.signalLen) s.sps (s.srcBits s.fl))),
    { s.csr with dstLen := BitVec.ofNat 32 s.signalLen }⟩

/-- `QMOD` (R272). -/
def execQmod (s : State) : StepResult := .next (complete (qmodCheck s) qmodEffect s)

/-- The first sample index `off`, by QPSK_SMP.MODE: CENTRE, HALF or MANUAL (R281); MODE 3 is illegal and has none. -/
def State.sampleOffset (s : State) : Option Nat :=
  match s.csr.smpMode.toNat with
  | 0 => some (s.nt - 1)
  | 1 => some (s.sps / 2)
  | 2 => some s.csr.smpOffset.toNat
  | _ => none

/-- Configuration check 4, for QDEM only: MODE ≠ 3 and the last sample index below Lw (R271, R281). -/
def sampleCheck (s : State) : Option CmdError :=
  match s.sampleOffset with
  | none => some (configError .qpskSmp)
  | some off => if s.matchedLen ≤ off + (s.symbols - 1) * s.sps then some (configError .qpskSmp) else none

/-- The checks of QDEM, in order (R280). -/
def qdemCheck (s : State) : Option CmdError :=
  qpskConfigCheck s <|> sampleCheck s <|>
    if s.srcLen ≠ s.signalLen then some ⟨.signalLengthMismatch, s.csr.srcLen⟩
    else if Config.qcarMax < s.signalLen then some ⟨.capacityExceeded, sat32 s.signalLen⟩
    else if Config.bufBytes < s.fl then some ⟨.capacityExceeded, sat32 s.fl⟩
    else if s.csr.noiseEn ∧ Config.noiseMax < s.fl then some ⟨.capacityExceeded, sat32 s.fl⟩
    else none

/-- The received signal mixed down, real part: `r ⊗ QCos` (R280). -/
def mixDownRe (r c : List F64) : List F64 := List.zipWith F64.mul r c

/-- The received signal mixed down, imaginary part: `neg(r ⊗ QSin)` (R280). -/
def mixDownIm (r sn : List F64) : List F64 := (List.zipWith F64.mul r sn).map F64.neg

/-- The real sample of symbol `k`, with its noise when NOISE_EN = 1 (R280, R281, R282). -/
def State.sampleRe (s : State) (wr : Nat → F64) (k : Nat) : F64 :=
  let q := wr (s.sampleOffset.getD 0 + k * s.sps)
  if s.csr.noiseEn then F64.add q (s.f64At .noise (2 * k)) else q

/-- The imaginary sample of symbol `k`, with its noise when NOISE_EN = 1 (R280, R281, R282). -/
def State.sampleIm (s : State) (wi : Nat → F64) (k : Nat) : F64 :=
  let q := wi (s.sampleOffset.getD 0 + k * s.sps)
  if s.csr.noiseEn then F64.add q (s.f64At .noise (2 * k + 1)) else q

/-- The slicer: `b0 = 1` iff the imaginary sample is below zero, `b1 = 1` iff the real sample is (R283). -/
def slice (qr qi : F64) : List Bool := [F64.lt qi F64.zero, F64.lt qr F64.zero]

/-- The demodulated bits of the signal in SRC (R280). -/
def State.qpskDemodulate (s : State) : List Bool :=
  let r := s.srcF64s s.signalLen
  let taps := s.table .tap s.nt
  let zr := mixDownRe r (s.table .qcos s.signalLen)
  let zi := mixDownIm r (s.table .qsin s.signalLen)
  (List.range s.symbols).flatMap (fun k => slice (s.sampleRe (convAt taps zr) k) (s.sampleIm (convAt taps zi) k))

/-- What QDEM does (R280). -/
def qdemEffect (s : State) : Effect :=
  ⟨bitsToCells s.qpskDemodulate, { s.csr with dstLen := BitVec.ofNat 32 s.fl }⟩

/-- `QDEM` (R280). -/
def execQdem (s : State) : StepResult := .next (complete (qdemCheck s) qdemEffect s)

end Sys2Proof.Machine
end

