-- ==== Sys2Proof/Machine/TurboEncoder.lean ====
section
/-! DEFINITION. The turbo encoder family and the interleaver (42_turbo_encoder.md). -/

namespace Sys2Proof.Machine

/-! The RSC component encoder (42_turbo_encoder.md R190). -/

/-- The feedback bit: the XOR of the two state taps (R190). -/
def rscFeedback (a b : Nat) (st : BitVec 15) : Bool := st.getLsbD a ^^ st.getLsbD b

/-- The parity bit: the fed-back value XOR the same two taps of the state before the shift (R190, 90_conflicts.md C1). -/
def rscParity (a b : Nat) (st : BitVec 15) (x : Bool) : Bool :=
  ((x ^^ rscFeedback a b st) ^^ st.getLsbD a) ^^ st.getLsbD b

/-- The next state: `(fed << (K − 2)) | (s >> 1)` (R190). -/
def rscNext (k a b : Nat) (st : BitVec 15) (x : Bool) : BitVec 15 :=
  ((BitVec.ofBool (x ^^ rscFeedback a b st)).setWidth 15 <<< (k - 2)) ||| (st >>> 1)

/-- The parity sequence of a frame from a given state (R190). -/
def rscParities (k a b : Nat) (st : BitVec 15) : List Bool → List Bool
  | [] => []
  | x :: xs => rscParity a b st x :: rscParities k a b (rscNext k a b st x) xs

/-- The state after a frame from a given state (R190). -/
def rscFinal (k a b : Nat) (st : BitVec 15) : List Bool → BitVec 15
  | [] => st
  | x :: xs => rscFinal k a b (rscNext k a b st x) xs

/-- What `RSC(x, K, a, b)` returns (R190). -/
structure RscOut where
  sys : List Bool
  par : List Bool
  final : BitVec 15
  deriving DecidableEq, Repr

/-- `RSC(x, K, a, b)`: one component encoder over a bit sequence, from state 0; the systematic output is the input
(R190). -/
def rsc (x : List Bool) (k a b : Nat) : RscOut := ⟨x, rscParities k a b 0 x, rscFinal k a b 0 x⟩

/-! The interleaver (R191, R192). -/

/-- `interleave(x)[k] = x[π[k]]` (R191). -/
def interleave {α : Type} (dflt : α) (perm : List Nat) (x : List α) : List α := perm.map (fun p => x.getD p dflt)

/-- `y[π[k]] ← v[k]` for increasing `k`, over the old contents of `y` (R192; for a permutation every element of `y` is
written once). -/
def scatter {α : Type} : List Nat → List α → List α → List α
  | p :: ps, v :: vs, y => scatter ps vs (y.set p v)
  | _, _, y => y

/-- The least `k` whose entry is not below `n`, or equals an earlier entry (42_turbo_encoder.md R193); `seen` are the
entries before index `k`. -/
def firstBadEntry (n : Nat) (seen : List Nat) (k : Nat) : List Nat → Option Nat
  | [] => none
  | p :: ps => if n ≤ p ∨ p ∈ seen then some k else firstBadEntry n (p :: seen) (k + 1) ps

/-! Checks (60_exceptions.md R331, R332). -/

/-- Stage 2 for FRAME_LEN. -/
def frameLenCheck (s : State) : Option CmdError := if s.csr.frameLenLegal then none else some (configError .frameLen)

/-- Stage 2 for an RSC encoder: FRAME_LEN, then CONSTRAINT_LEN, then RSC_TAPS (R195 checks 1 to 3). -/
def rscConfigCheck (s : State) : Option CmdError :=
  if ¬ s.csr.frameLenLegal then some (configError .frameLen)
  else if ¬ s.csr.constraintLegal then some (configError .constraintLen)
  else if ¬ s.csr.tapsLegal then some (configError .rscTaps)
  else none

/-- Stage 3: ILV_VALID (R194). -/
def ilvValidCheck (s : State) : Option CmdError := if s.csr.ilvValid then none else some ilvInvalidError

/-- Stage 4: SRC_LEN = N (R195 check 4, R196 check 3). -/
def frameLengthCheck (s : State) : Option CmdError :=
  if s.srcLen ≠ s.frameN then some ⟨.frameLengthMismatch, s.csr.srcLen⟩ else none

/-! Commands. -/

/-- The checks of ILVCHK, in order (R193). -/
def ilvchkCheck (s : State) : Option CmdError :=
  if ¬ s.csr.frameLenLegal then some (configError .frameLen)
  else (firstBadEntry s.frameN [] 0 s.perm).map (fun k => ⟨.interleaverInvalid, BitVec.ofNat 32 k⟩)

/-- What ILVCHK does (R193): ILV_VALID ← 1, DST_LEN ← 0. -/
def ilvchkEffect (s : State) : Effect := ⟨[], { s.csr with ilvValid := true, dstLen := 0 }⟩

/-- `ILVCHK` (R193): sets ILV_VALID when the table is a permutation; its failure is the one error that also clears
ILV_VALID (60_exceptions.md R333, R336). -/
def execIlvchk (s : State) : StepResult :=
  .next (match ilvchkCheck s with
    | none => completeOk (ilvchkEffect s) s
    | some e => completeErr e { s with csr := { s.csr with ilvValid := false } })

/-- The checks of RSCENC, in order (R195). -/
def rscencCheck (s : State) : Option CmdError :=
  rscConfigCheck s <|> frameLengthCheck s <|> nonBinaryError .nonBinaryInput (s.srcBytes s.srcLen)

/-- One RSC encoder run with the configured K and taps (R195, R198). -/
def State.rscRun (s : State) (x : List Bool) : RscOut :=
  rsc x s.csr.constraintLen.toNat s.csr.tapA.toNat s.csr.tapB.toNat

/-- What RSCENC does (R195): DST holds `sys ‖ par`, RSC1_STATE the final state. -/
def rscencEffect (s : State) : Effect :=
  let r := s.rscRun (s.srcBits s.frameN)
  ⟨bitsToCells (r.sys ++ r.par), { s.csr with rsc1State := r.final, dstLen := BitVec.ofNat 32 (2 * s.frameN) }⟩

/-- `RSCENC` (R195). -/
def execRscenc (s : State) : StepResult := .next (complete (rscencCheck s) rscencEffect s)

/-- The checks of ILV and of DILV, in order (R196, R197). -/
def interleaverCheck (s : State) : Option CmdError := frameLenCheck s <|> ilvValidCheck s <|> frameLengthCheck s

/-- What ILV does (R196): `Dst8(k) ← Src8(Ilv(k))`. -/
def ilvEffect (s : State) : Effect := ⟨s.perm.map s.src8, { s.csr with dstLen := BitVec.ofNat 32 s.frameN }⟩

/-- `ILV` (R196). -/
def execIlv (s : State) : StepResult := .next (complete (interleaverCheck s) ilvEffect s)

/-- What DILV does (R197): `Dst8(Ilv(k)) ← Src8(k)`. -/
def dilvEffect (s : State) : Effect :=
  ⟨scatter s.perm (s.srcBytes s.frameN) ((List.range s.frameN).map s.dst8),
    { s.csr with dstLen := BitVec.ofNat 32 s.frameN }⟩

/-- `DILV` (R197). -/
def execDilv (s : State) : StepResult := .next (complete (interleaverCheck s) dilvEffect s)

/-- The checks of TENC, in order (R198). -/
def tencCheck (s : State) : Option CmdError :=
  rscConfigCheck s <|> ilvValidCheck s <|> frameLengthCheck s
    <|> nonBinaryError .nonBinaryInput (s.srcBytes s.srcLen)

/-- What TENC does (R198): systematic bits, parity of encoder 1 on the frame, parity of encoder 2 on the interleaved
frame; the second encoder starts at state 0 (R200 for the layout). -/
def tencEffect (s : State) : Effect :=
  let x := s.srcBits s.frameN
  let r1 := s.rscRun x
  let r2 := s.rscRun (interleave false s.perm x)
  ⟨bitsToCells (r1.sys ++ r1.par ++ r2.par),
    { s.csr with rsc1State := r1.final, rsc2State := r2.final, dstLen := BitVec.ofNat 32 (3 * s.frameN) }⟩

/-- `TENC` (R198). -/
def execTenc (s : State) : StepResult := .next (complete (tencCheck s) tencEffect s)

end Sys2Proof.Machine
end

