-- ==== Sys2Proof/Machine/TurboDecoder.lean ====
section
/-! DEFINITION. The turbo decoder (43_turbo_decoder.md): the document's simplified two-component decoder, evaluated as
written in binary64 (R220 to R223), not a textbook one (90_conflicts.md C6). -/

namespace Sys2Proof.Machine

/-- The systematic component: `c[i] = u[i] ⊕ p[i]` (R221, R222). -/
def sysComponent (u p : List F64) : List F64 := List.zipWith F64.add u p

/-- `llr[i] = (TWO ⊗ c[i]) ⊕ pr[i]` (R221). -/
def simpLlr (u p pr : List F64) : List F64 :=
  List.zipWith (fun c q => F64.add (F64.mul F64.two c) q) (sysComponent u p) pr

/-- `ext[i] = (llr[i] ⊖ pr[i]) ⊖ (TWO ⊗ c[i])` (R221). -/
def simpExt (u p pr : List F64) : List F64 :=
  List.zipWith (fun lq c => F64.sub (F64.sub lq.1 lq.2) (F64.mul F64.two c)) ((simpLlr u p pr).zip pr)
    (sysComponent u p)

/-- The received frame of a decode: systematic part, first and second parity part, and π (R220 step 1). -/
structure Received where
  rs : List F64
  rp1 : List F64
  rp2 : List F64
  perm : List Nat
  deriving DecidableEq, Repr

/-- The prior after one iteration (R220 steps 3a to 3d): decoder 1, interleave its extrinsic and the systematic part,
decoder 2, put its extrinsic back in order. -/
def nextPrior (r : Received) (prior : List F64) : List F64 :=
  let ext1 := simpExt r.rs r.rp1 prior
  let pe := interleave F64.zero r.perm ext1
  let rsi := interleave F64.zero r.perm r.rs
  scatter r.perm (simpExt rsi r.rp2 pe) prior

/-- `llr1` of the last of `iters` iterations from a given prior (R220 step 3, R223). -/
def lastLlr (r : Received) : Nat → List F64 → List F64
  | 0, _ => []
  | 1, prior => simpLlr r.rs r.rp1 prior
  | n + 2, prior => lastLlr r (n + 1) (nextPrior r prior)

/-- The decision: 1 iff `llr1[i] > 0.0` (R223). -/
def decideBits (llr : List F64) : List Bool := llr.map (fun l => F64.gt l F64.zero)

/-- The received frame in SRC: three thirds of N binary64 values (R220 step 1, 42_turbo_encoder.md R200). -/
def State.received (s : State) : Received where
  rs := (List.range s.frameN).map s.src64
  rp1 := (List.range s.frameN).map (fun i => s.src64 (s.frameN + i))
  rp2 := (List.range s.frameN).map (fun i => s.src64 (2 * s.frameN + i))
  perm := s.perm

/-- `turbo decode` of a received frame of length `n` over `iters` iterations, from the all-zero prior (R220 step 2). -/
def turboDecode (r : Received) (n iters : Nat) : List Bool := decideBits (lastLlr r iters (List.replicate n F64.zero))

/-- The checks of TDEC, in order (R220). ITER = 0 makes the word itself illegal (stage 1, 30_encoding.md R133): a word
the decoder never gives, so the first check concerns the ill-formed term only (log entry 6). -/
def tdecCheck (iter : BitVec 8) (s : State) : Option CmdError :=
  if ¬ (Instr.tdec iter).wellFormed then some ⟨.illegalCommand, s.csr.lastCmd⟩
  else
    frameLenCheck s <|> ilvValidCheck s
      <|> (if s.srcLen ≠ 3 * s.frameN then some ⟨.signalLengthMismatch, s.csr.srcLen⟩ else none)

/-- What TDEC does (R220). -/
def tdecEffect (iter : BitVec 8) (s : State) : Effect :=
  ⟨bitsToCells (turboDecode s.received s.frameN iter.toNat), { s.csr with dstLen := BitVec.ofNat 32 s.frameN }⟩

/-- `TDEC` (R220). -/
def execTdec (iter : BitVec 8) (s : State) : StepResult := .next (complete (tdecCheck iter s) (tdecEffect iter) s)

end Sys2Proof.Machine
end

