-- ==== Sys2Proof/Machine/Dispatch.lean ====
section
/-! DEFINITION. The completion of each command: one arm per constructor, one meaning per arm. -/

namespace Sys2Proof.Machine

def exec (i : Instr) (s : State) : Host.Outcome State Fault Refusal :=
  match i with
  | .nop => Sys2Proof.Machine.execNop s
  | .ilvchk => Sys2Proof.Machine.execIlvchk s
  | .pack => Sys2Proof.Machine.execPack s
  | .unpack => Sys2Proof.Machine.execUnpack s
  | .rscenc => Sys2Proof.Machine.execRscenc s
  | .ilv => Sys2Proof.Machine.execIlv s
  | .dilv => Sys2Proof.Machine.execDilv s
  | .tenc => Sys2Proof.Machine.execTenc s
  | .tdec iter => Sys2Proof.Machine.execTdec iter s
  | .crc => Sys2Proof.Machine.execCrc s
  | .fbuild => Sys2Proof.Machine.execFbuild s
  | .fparse => Sys2Proof.Machine.execFparse s
  | .amod => Sys2Proof.Machine.execAmod s
  | .adem => Sys2Proof.Machine.execAdem s
  | .qmod => Sys2Proof.Machine.execQmod s
  | .qdem => Sys2Proof.Machine.execQdem s

end Sys2Proof.Machine
end

