-- ==== Sys2Proof/Machine/Sequencer.lean ====
section
/-! DEFINITION. The sequencer's turn and what each event does. -/

namespace Sys2Proof.Machine

/-- The sequencer's turn (10_state.md R31): in BUSY its one step, completion of the latched command (60_exceptions.md
R336), an illegal word completing with IllegalCommand (30_encoding.md R133); in IDLE it has no step. -/
def sequencerTurn (s : State) : StepResult :=
  if s.csr.busy then
    match decode s.csr.lastCmd with
    | .ok i => exec i s
    | .error _ => .next (completeIllegal s)
  else .next s

/-- One event (log entry 1). -/
def handleEvent (e : Event) (s : State) : StepResult :=
  match e with
  | .hostRead a => .next (hostRead a s)
  | .hostWrite a v => .next (hostWrite a v s)
  | .sequencer => sequencerTurn s
  | .powerOn => .next (powerOnReset s)

end Sys2Proof.Machine
end

