-- ==== Sys2Proof/Machine/Step.lean ====
section
/-! DEFINITION. One step of the block and the bus beside it. -/

namespace Sys2Proof.Machine

/-- One step: the next event; when none is left, the sequencer's turn, so that a BUSY sequencer completes
(70_reset_and_hazards.md R383) and an IDLE block waits (R373). -/
def step (s : State) : StepResult :=
  match s.events with
  | [] => sequencerTurn s
  | e :: rest => handleEvent e { s with events := rest }

/-- The state with a command word latched and the sequencer's turn next, so that the very next step completes it. The
block fetches nothing (20_memory.md R108): a word comes to run by its acceptance (60_exceptions.md R335), which is what
this applies (log entry 2). Bits of `w` at and above `nbits` are 0. -/
def State.withFetchWord (s : State) (nbits w : Nat) : State :=
  { acceptCmd (BitVec.ofNat 32 (w % 2 ^ nbits)) s with events := .sequencer :: s.events }

end Sys2Proof.Machine
end

