-- ==== Sys2Proof/Safety.lean ====
section
/-! DEFINITION. The terms the statements use: what a kept state and a finished run are, what it is for a command to
complete with a result or with an error, and reference formulas written from the rules by index, beside the model's own
list functions. -/

namespace Sys2Proof.Machine

/-! Kept states. -/

/-- Every listed byte lies in a RAM region: nothing is ever stored at a reserved address or in the CSR region
(20_memory.md R91, R92, R96). -/
def Memory.inRam (m : Memory) : Bool := m.cells.all (fun c => (regionOf c.1).isSome)

/-- The memory is in its canonical form and holds RAM bytes only. -/
abbrev State.memoryKept (s : State) : Prop := s.ram.wf = true ∧ s.ram.inRam = true

/-- ILV entries 0 to N − 1 form a permutation of [0, N), for a legal N (42_turbo_encoder.md R194). -/
abbrev State.holdsPermutation (s : State) : Prop :=
  (1 ≤ s.frameN ∧ s.frameN ≤ 4096) ∧ (∀ k, k < s.frameN → s.ilvEntry k < s.frameN) ∧
    ∀ j, j < s.frameN → ∀ k, k < s.frameN → s.ilvEntry j = s.ilvEntry k → j = k

/-- ILV_VALID says what R194 says it means. -/
abbrev State.interleaverKept (s : State) : Prop := s.csr.ilvValid = true → s.holdsPermutation

/-- The error channel is consistent (10_state.md R37, R40, R41, R43, 60_exceptions.md R330, R335, R336): ERRCODE is one of
the listed codes, CAUSE is never 3, nothing of the last completion stands while BUSY, ERR stands only beside a code, a
completion without error left ERR_INFO 0, one with an error left DST_LEN 0. -/
abbrev Csr.reportsKept (c : Csr) : Prop :=
  (c.errcode.toNat ≤ 0x09 ∨ 0x10 ≤ c.errcode.toNat ∧ c.errcode.toNat ≤ 0x14) ∧ c.accCause ≠ 3 ∧
    (c.busy = true → c.doneFlag = false ∧ c.err = false ∧ c.errcode = 0 ∧ c.errInfo = 0) ∧
    (c.err = true → c.errcode ≠ 0) ∧ (c.errcode = 0 → c.errInfo = 0) ∧ (c.errcode ≠ 0 → c.dstLen = 0)

/-- A host program's run is finished when its last statement has executed and BUSY = 0 (70_reset_and_hazards.md R384). -/
abbrev State.finished (s : State) : Prop := s.events = [] ∧ s.csr.busy = false

/-! What a completion leaves. -/

/-- The model's own fields across a completion: the bus side and the epochs stay, the completion is counted. -/
abbrev bookkeeping (s t : State) : Prop :=
  t.events = s.events ∧ t.reads = s.reads ∧ t.ramEpoch = s.ramEpoch ∧ t.dstEpoch = s.dstEpoch ∧
    t.completions = s.completions + 1

/-- The command answers a next state with a result: the register file is `csr` but for BUSY = 0 and DONE = 1, DST bytes
0 to n − 1 are `out`, and every other byte of memory reads as before. -/
def CompletesWith (i : Instr) (s : State) (n : Nat) (out : Nat → Byte) (csr : Csr) : Prop :=
  ∃ t, exec i s = .next t ∧ t.csr = { csr with busy := false, doneFlag := true } ∧
    (∀ j, j < n → t.dst8 j = out j) ∧
    (∀ a, a < Region.dst.base ∨ Region.dst.base + n ≤ a → t.readByte a = s.readByte a) ∧ bookkeeping s t

/-- The same for a command that writes `n` binary64 elements: an element that is a NaN is some quiet NaN, every other
one is exactly the value (00_scope.md R14). -/
def CompletesWithF64 (i : Instr) (s : State) (n : Nat) (out : Nat → F64) (csr : Csr) : Prop :=
  ∃ t, exec i s = .next t ∧ t.csr = { csr with busy := false, doneFlag := true } ∧
    (∀ j, j < n → if F64.isNaN (out j) = true then F64.isNaN (t.f64At .dst j) = true ∧ (t.f64At .dst j).getLsbD 51 = true
      else t.f64At .dst j = out j) ∧
    (∀ a, a < Region.dst.base ∨ Region.dst.base + 8 * n ≤ a → t.readByte a = s.readByte a) ∧ bookkeeping s t

/-- The command answers a next state with an error: the register file is `csr` but for the code, the detail, ERR,
DST_LEN = 0, BUSY = 0 and DONE = 1, and every byte of memory reads as before (60_exceptions.md R333, R336). -/
def FailsFrom (csr : Csr) (i : Instr) (s : State) (code : BitVec 8) (info : Word) : Prop :=
  ∃ t, exec i s = .next t ∧
    t.csr = { csr with
      errcode := code, errInfo := info, err := true, dstLen := 0, busy := false, doneFlag := true } ∧
    (∀ a, t.readByte a = s.readByte a) ∧ bookkeeping s t

/-- An error that changes no register besides the status. -/
def FailsWith (i : Instr) (s : State) (code : BitVec 8) (info : Word) : Prop := FailsFrom s.csr i s code info

/-! Legality, as the rules put it (60_exceptions.md R332). -/

/-- 1 ≤ N ≤ N_MAX. -/
abbrev frameLegal (s : State) : Prop := 1 ≤ s.frameN ∧ s.frameN ≤ 4096

/-- 3 ≤ K ≤ 16. -/
abbrev constraintOk (s : State) : Prop := 3 ≤ s.csr.constraintLen.toNat ∧ s.csr.constraintLen.toNat ≤ 16

/-- TAP_A ≠ TAP_B, both at most K − 2. -/
abbrev tapsOk (s : State) : Prop :=
  s.csr.tapA ≠ s.csr.tapB ∧ s.csr.tapA.toNat ≤ s.csr.constraintLen.toNat - 2 ∧
    s.csr.tapB.toNat ≤ s.csr.constraintLen.toNat - 2

/-- 1 ≤ SPB ≤ ACAR_MAX. -/
abbrev spbOk (s : State) : Prop := 1 ≤ s.spb ∧ s.spb ≤ 8192

/-- Cell `i` of SRC is binary. -/
abbrev binaryCell (s : State) (i : Nat) : Prop := s.src8 i = 0 ∨ s.src8 i = 1

/-- The first `n` cells of SRC are binary. -/
abbrev binarySrc (s : State) (n : Nat) : Prop := ∀ i, i < n → binaryCell s i

/-- `k` is the least index below `n` of a cell that is not binary. -/
abbrev leastNonBinary (s : State) (n k : Nat) : Prop := k < n ∧ ¬ binaryCell s k ∧ ∀ j, j < k → binaryCell s j

/-- A count as ERR_INFO: min(count, 0xFFFFFFFF). -/
def saturated (n : Nat) : Word := BitVec.ofNat 32 (min n 0xFFFFFFFF)

/-! Reference formulas. -/

/-- Byte `j` of the packed SRC cells, as 41_bitframe.md R170 writes it. -/
def refPacked (s : State) (j : Nat) : Byte :=
  (s.src8 (8 * j) <<< 7) ||| (s.src8 (8 * j + 1) <<< 6) ||| (s.src8 (8 * j + 2) <<< 5) ||| (s.src8 (8 * j + 3) <<< 4)
    ||| (s.src8 (8 * j + 4) <<< 3) ||| (s.src8 (8 * j + 5) <<< 2) ||| (s.src8 (8 * j + 6) <<< 1) ||| s.src8 (8 * j + 7)

/-- Bit `a` of a number. -/
def refBit (v a : Nat) : Nat := (v >>> a) % 2

/-- The next RSC state, as 42_turbo_encoder.md R190 writes it: `(fed << (K−2)) | (s >> 1)`. -/
def refRscNext (k a b st x : Nat) : Nat := ((x ^^^ (refBit st a ^^^ refBit st b)) <<< (k - 2)) ||| (st >>> 1)

/-- `st` is the state sequence of an RSC encoder over the bits `x 0 .. x (n−1)` (R190). -/
abbrev refRscRun (s : State) (n : Nat) (x st : Nat → Nat) : Prop :=
  st 0 = 0 ∧ ∀ i, i < n → st (i + 1) =
    refRscNext s.csr.constraintLen.toNat s.csr.tapA.toNat s.csr.tapB.toNat (st i) (x i)

/-- `llr[i]` of a component decoder (43_turbo_decoder.md R221). -/
def refLlr (u p pr : Nat → F64) (i : Nat) : F64 := F64.add (F64.mul F64.two (F64.add (u i) (p i))) (pr i)

/-- `ext[i]` of a component decoder (R221). -/
def refExt (u p pr : Nat → F64) (i : Nat) : F64 :=
  F64.sub (F64.sub (refLlr u p pr i) (pr i)) (F64.mul F64.two (F64.add (u i) (p i)))

/-- `rs`, `rp1` and `rp2`, the thirds of SRC (R220). -/
def refRs (s : State) (i : Nat) : F64 := s.src64 i
def refRp1 (s : State) (i : Nat) : F64 := s.src64 (s.frameN + i)
def refRp2 (s : State) (i : Nat) : F64 := s.src64 (2 * s.frameN + i)

/-- `c1[i] = rs[i] ⊕ rp1[i]` (R225). -/
def refC1 (s : State) (i : Nat) : F64 := F64.add (refRs s i) (refRp1 s i)

/-- `c2[k] = rs[π[k]] ⊕ rp2[k]` (R225). -/
def refC2 (s : State) (k : Nat) : F64 := F64.add (refRs s (s.ilvEntry k)) (refRp2 s k)

/-- The poisoned set `P` (R225). -/
def poisoned (s : State) (i : Nat) : Prop :=
  F64.isFinite (F64.mul F64.two (refC1 s i)) = false ∨
    ∃ k, k < s.frameN ∧ s.ilvEntry k = i ∧ F64.isFinite (F64.mul F64.two (refC2 s k)) = false

/-- The image of a bit under a noiseless-channel proxy: PROXYPM (−1.0 or 1.0) or PROXY01 (0.0 or 1.0) (R226). -/
def refProxy (pm bit : Bool) : F64 := if bit then F64.one else if pm then F64.neg F64.one else F64.zero

/-- One shift of the CRC register as 46_framer.md R300 writes it, on numbers. -/
def refCrcShift (poly reg : Nat) : Nat :=
  if refBit reg 15 = 1 then ((reg <<< 1) ^^^ poly) &&& 0xFFFF else (reg <<< 1) &&& 0xFFFF

/-- The `w` low bits of a number in reverse order. -/
def refReflect (w v : Nat) : Nat := ((List.range w).map (fun i => refBit v i <<< (w - 1 - i))).sum

/-- `Crc16(y)` as R300 writes it, on numbers. -/
def refCrc16 (poly init xorout : Nat) (refin refout : Bool) (y : List Nat) : Nat :=
  let reg := y.foldl (fun reg d => Nat.repeat (refCrcShift poly) 8
    (reg ^^^ ((if refin then refReflect 8 d else d) <<< 8))) init
  (if refout then refReflect 16 reg else reg) ^^^ xorout

/-- Header, length and payload of the frame FBUILD makes of SRC, by byte index (46_framer.md R305). -/
def refBody (s : State) (j : Nat) : Byte :=
  if j = 0 then s.csr.frHeader.extractLsb' 8 8
  else if j = 1 then s.csr.frHeader.extractLsb' 0 8
  else if j = 2 then BitVec.ofNat 8 (s.srcLen / 8 / 256)
  else if j = 3 then BitVec.ofNat 8 (s.srcLen / 8 % 256)
  else refPacked s (j - 4)

/-- The CRC-16 of the bytes `f 0 .. f (n−1)` under the configured parameters. -/
def refCrcOf (s : State) (f : Nat → Byte) (n : Nat) : BitVec 16 := crc16 s.csr.crcParams ((List.range n).map f)

/-- The frame FBUILD makes of SRC, by byte index (R305). -/
def refFrame (s : State) (j : Nat) : Byte :=
  let len := s.srcLen / 8
  if j < 4 + len then refBody s j
  else if j = 4 + len then (refCrcOf s (refBody s) (4 + len)).extractLsb' 8 8
  else (refCrcOf s (refBody s) (4 + len)).extractLsb' 0 8

/-- Bit cell `i` of a byte sequence, most significant bit first (41_bitframe.md R171). -/
def refUnpacked (f : Nat → Byte) (i : Nat) : Byte := (f (i / 8) >>> (7 - i % 8)) &&& 1

/-- A 16-bit big-endian field of a byte sequence (46_framer.md R305). -/
def refField (f : Nat → Byte) (j : Nat) : BitVec 16 := (f j ++ f (j + 1) : BitVec (8 + 8))

/-- The first `k` terms of `y[n]` of `Conv(x, len)` over the taps `tap 0, tap 1, …` (45_qpsk_modem.md R274). -/
def refConv (x tap : Nat → F64) (len n : Nat) : Nat → F64
  | 0 => F64.zero
  | j + 1 =>
    if j ≤ n ∧ n - j < len then F64.add (refConv x tap len n j) (F64.mul (x (n - j)) (tap j))
    else refConv x tap len n j

/-- `±A` by a bit cell: `−A` iff the cell is 1 (R270). -/
def refLevel (cell : Byte) : F64 := if cell = 1 then F64.neg F64.ampA else F64.ampA

/-- The upsampled real and imaginary symbol sequences of SRC (R270, R273). -/
def refUpRe (s : State) (m : Nat) : F64 := if m % s.sps = 0 then refLevel (s.src8 (2 * (m / s.sps) + 1)) else F64.zero
def refUpIm (s : State) (m : Nat) : F64 := if m % s.sps = 0 then refLevel (s.src8 (2 * (m / s.sps))) else F64.zero

/-- Sample `n` of the signal QMOD makes of SRC (R272, R275). -/
def refQmod (s : State) (n : Nat) : F64 :=
  F64.sub
    (F64.mul (refConv (refUpRe s) (s.f64At .tap) (s.fl / 2 * s.sps) n s.nt) (s.f64At .qcos n))
    (F64.mul (refConv (refUpIm s) (s.f64At .tap) (s.fl / 2 * s.sps) n s.nt) (s.f64At .qsin n))

/-- `off` by QPSK_SMP.MODE, for a legal mode (R281). -/
def refOffset (s : State) : Nat :=
  if s.csr.smpMode = 0 then s.nt - 1 else if s.csr.smpMode = 1 then s.sps / 2 else s.csr.smpOffset.toNat

/-- The real and imaginary samples of symbol `k` of the signal in SRC, with noise when NOISE_EN = 1 (R280 to R282). -/
def refSampleRe (s : State) (k : Nat) : F64 :=
  let q := refConv (fun n => F64.mul (s.src64 n) (s.f64At .qcos n)) (s.f64At .tap) s.signalLen
    (refOffset s + k * s.sps) s.nt
  if s.csr.noiseEn then F64.add q (s.f64At .noise (2 * k)) else q
def refSampleIm (s : State) (k : Nat) : F64 :=
  let q := refConv (fun n => F64.neg (F64.mul (s.src64 n) (s.f64At .qsin n))) (s.f64At .tap) s.signalLen
    (refOffset s + k * s.sps) s.nt
  if s.csr.noiseEn then F64.add q (s.f64At .noise (2 * k + 1)) else q

/-- The configuration of QPSK is legal (R271 checks 1 to 3). -/
abbrev qpskOk (s : State) : Prop := 1 ≤ s.sps ∧ (s.fl % 2 = 0 ∧ 2 ≤ s.fl) ∧ 1 ≤ s.nt ∧ s.nt ≤ 1024

/-- The sampling configuration of QDEM is legal: MODE ≠ 3 and the last sample index below Lw (R271 check 4). -/
abbrev sampleOk (s : State) : Prop :=
  s.csr.smpMode ≠ 3 ∧ refOffset s + (s.fl / 2 - 1) * s.sps < s.signalLen + s.nt - 1

/-- `a < b` for two values that are no NaN: −∞ below everything else, +∞ above everything else, finite values by their
value (00_scope.md R14). -/
abbrev refLess (a b : F64) : Prop :=
  if F64.isInf a = true then F64.signBit a = true ∧ ¬ (F64.isInf b = true ∧ F64.signBit b = true)
  else if F64.isInf b = true then F64.signBit b = false
  else F64.value a < F64.value b

/-! The bus, by numbers (20_memory.md R91, R96, 10_state.md R35, R59). -/

/-- The addresses of the RAM regions. -/
abbrev refRam (a : Nat) : Prop :=
  (0x010000 ≤ a ∧ a ≤ 0x013FFF) ∨ (0x020000 ≤ a ∧ a ≤ 0x021FFF) ∨ (0x030000 ≤ a ∧ a ≤ 0x03FFFF) ∨
    (0x100000 ≤ a ∧ a ≤ 0x5FFFFF)

/-- The offsets of the configuration registers. -/
abbrev refConfig (a : Nat) : Prop :=
  a = 0x01C ∨ (0x024 ≤ a ∧ a ≤ 0x02C) ∨ (0x038 ≤ a ∧ a ≤ 0x048) ∨ (0x050 ≤ a ∧ a ≤ 0x064)

/-- The CAUSE of an access, if it is illegal (R96). -/
def refCause (s : State) (wr : Bool) (a : Addr) : Option (BitVec 2) :=
  if a.toNat % 4 ≠ 0 then some 1
  else if 0x068 < a.toNat ∧ ¬ refRam a.toNat then some 0
  else if s.csr.busy = true ∧ (refRam a.toNat ∨ wr = true ∧ refConfig a.toNat) then some 2
  else none

/-- The register file after an illegal access (R96): ACC_ADDR takes the first since ACC_ERR was 0. -/
def refNoted (c : Csr) (cause : BitVec 2) (wr : Bool) (a : Addr) : Csr :=
  if c.accErr then c else { c with accErr := true, accAddr := a, accCause := cause, accWr := wr }

/-- What a read of the register at offset `a` returns, as a number: each field times the weight of its lowest bit
(10_state.md R36 to R58). -/
def refRegister (c : Csr) (a : Nat) : Nat :=
  if a = 0x000 then 0x50534C43
  else if a = 0x004 then 0x00000001
  else if a = 0x008 then c.irqEn.toNat
  else if a = 0x00C then
    c.busy.toNat + 2 * c.doneFlag.toNat + 4 * c.err.toNat + 8 * c.cmdOvr.toNat + 16 * c.accErr.toNat
      + 32 * c.ilvValid.toNat + 0x100 * c.errcode.toNat
  else if a = 0x014 then c.errInfo.toNat
  else if a = 0x018 then c.accAddr.toNat + 0x20000000 * c.accCause.toNat + 0x80000000 * c.accWr.toNat
  else if a = 0x01C then c.srcLen.toNat
  else if a = 0x020 then c.dstLen.toNat
  else if a = 0x024 then c.frameLen.toNat
  else if a = 0x028 then c.constraintLen.toNat
  else if a = 0x02C then c.tapA.toNat + 0x100 * c.tapB.toNat
  else if a = 0x030 then c.rsc1State.toNat
  else if a = 0x034 then c.rsc2State.toNat
  else if a = 0x038 then c.frHeader.toNat
  else if a = 0x03C then c.crcPoly.toNat
  else if a = 0x040 then c.crcInit.toNat
  else if a = 0x044 then c.crcXorout.toNat
  else if a = 0x048 then c.refin.toNat + 2 * c.refout.toNat
  else if a = 0x04C then c.crcResult.toNat
  else if a = 0x050 then c.askSpb.toNat
  else if a = 0x054 then c.qpskSps.toNat
  else if a = 0x058 then c.qpskFrameLen.toNat
  else if a = 0x05C then c.qpskNtaps.toNat
  else if a = 0x060 then c.smpOffset.toNat + 0x1000000 * c.smpMode.toNat
  else if a = 0x064 then c.noiseEn.toNat
  else if a = 0x068 then c.lastCmd.toNat
  else 0

/-- The register file `c` but for the fields of the configuration register at offset `a`, which are those of `d`, and for
ILV_VALID, which a write to FRAME_LEN clears (10_state.md R44). -/
def refOthersKept (a : Addr) (c d : Csr) : Csr :=
  { c with
    ilvValid := c.ilvValid && decide (a ≠ 0x024)
    srcLen := if a = 0x01C then d.srcLen else c.srcLen
    frameLen := if a = 0x024 then d.frameLen else c.frameLen
    constraintLen := if a = 0x028 then d.constraintLen else c.constraintLen
    tapA := if a = 0x02C then d.tapA else c.tapA
    tapB := if a = 0x02C then d.tapB else c.tapB
    frHeader := if a = 0x038 then d.frHeader else c.frHeader
    crcPoly := if a = 0x03C then d.crcPoly else c.crcPoly
    crcInit := if a = 0x040 then d.crcInit else c.crcInit
    crcXorout := if a = 0x044 then d.crcXorout else c.crcXorout
    refin := if a = 0x048 then d.refin else c.refin
    refout := if a = 0x048 then d.refout else c.refout
    askSpb := if a = 0x050 then d.askSpb else c.askSpb
    qpskSps := if a = 0x054 then d.qpskSps else c.qpskSps
    qpskFrameLen := if a = 0x058 then d.qpskFrameLen else c.qpskFrameLen
    qpskNtaps := if a = 0x05C then d.qpskNtaps else c.qpskNtaps
    smpOffset := if a = 0x060 then d.smpOffset else c.smpOffset
    smpMode := if a = 0x060 then d.smpMode else c.smpMode
    noiseEn := if a = 0x064 then d.noiseEn else c.noiseEn }

end Sys2Proof.Machine
end

