-- ==== Sys2Proof/Certificates/Slice0/Obligations.lean ====
section
/-! DEFINITION. The statements for the provers, from the numbered rules of spec/. The terms they use stand in
Sys2Proof/Safety.lean. -/

open Sys2Proof Sys2Proof.Machine

/-! Encoding and step. -/

/-- 30_encoding.md R133 and R136: the decoder accepts exactly the words of well-formed commands, each as its command. -/
def Obligations.DecodeAcceptsExactlyEncodedCommands : Prop :=
  ∀ (w : Word) (i : Instr), decode w = .ok i ↔ i.wellFormed = true ∧ encode i = w

/-- 30_encoding.md R133: a word is legal exactly when its OP is in the table of R132, RSV is 0, and ARG is 0, or 1 to 255
for TDEC. -/
def Obligations.LegalWordsByFields : Prop :=
  ∀ w : Word, (∃ i, decode w = .ok i) ↔
    w.toNat / 0x10000 = 0 ∧
      ((w.toNat / 0x100 % 0x100 = 0 ∧
          w.toNat % 0x100 ∈
            [0x00, 0x01, 0x02, 0x03, 0x10, 0x11, 0x12, 0x13, 0x20, 0x21, 0x22, 0x30, 0x31, 0x38, 0x39]) ∨
        (1 ≤ w.toNat / 0x100 % 0x100 ∧ w.toNat % 0x100 = 0x18))

/-- 30_encoding.md R139: the command words it lists, legal and illegal. -/
def Obligations.ListedWordsDecode : Prop :=
  decode 0x00000000 = .ok .nop ∧ decode 0x00000001 = .ok .ilvchk ∧ decode 0x00000002 = .ok .pack ∧
    decode 0x00000003 = .ok .unpack ∧ decode 0x00000010 = .ok .rscenc ∧ decode 0x00000011 = .ok .ilv ∧
    decode 0x00000012 = .ok .dilv ∧ decode 0x00000013 = .ok .tenc ∧ decode 0x00000020 = .ok .crc ∧
    decode 0x00000021 = .ok .fbuild ∧ decode 0x00000022 = .ok .fparse ∧ decode 0x00000030 = .ok .amod ∧
    decode 0x00000031 = .ok .adem ∧ decode 0x00000038 = .ok .qmod ∧ decode 0x00000039 = .ok .qdem ∧
    decode 0x00000618 = .ok (.tdec 6) ∧ decode 0x00000118 = .ok (.tdec 1) ∧
    (∀ i, decode 0x00000018 ≠ .ok i) ∧ (∀ i, decode 0x00000113 ≠ .ok i) ∧ ∀ i, decode 0x00010000 ≠ .ok i

/-- A step of a BUSY block whose latched word decodes to a command is the completion of that command; the step takes the
sequencer's turn off the event list, or finds the list empty (60_exceptions.md R336; that an empty list lets the sequencer
move is the model's choice, log entry 1). -/
def Obligations.StepRunsTheLatchedCommand : Prop :=
  ∀ (s : State) (i : Instr), s.csr.busy = true → decode s.csr.lastCmd = .ok i →
    (∀ rest, s.events = .sequencer :: rest → step s = exec i { s with events := rest }) ∧
      (s.events = [] → step s = exec i s)

/-- 30_encoding.md R133, 60_exceptions.md R330: an illegal word completes with IllegalCommand (0x10) and the word as
ERR_INFO, and changes nothing else. That an illegal word whose OP is ILVCHK's (0x00000101) leaves ILV_VALID alone too is the
model's reading of R336 (log entry 18). -/
def Obligations.IllegalWordCompletesWithItself : Prop :=
  ∀ (s : State) (rest : List Event), s.csr.busy = true → s.events = .sequencer :: rest →
    (∀ i, decode s.csr.lastCmd ≠ .ok i) →
    step s = .next { s with
      events := rest
      completions := s.completions + 1
      csr := { s.csr with
        errcode := 0x10, errInfo := s.csr.lastCmd, err := true, dstLen := 0, busy := false, doneFlag := true } }

/-- 60_exceptions.md R335: a CMD write in IDLE is accepted whatever the word is; the interrupt output falls; every other
register and all of memory keep their values. -/
def Obligations.CmdWriteInIdleIsAccepted : Prop :=
  ∀ (s : State) (w : Word) (rest : List Event), s.csr.busy = false → s.events = .hostWrite 0x010 w :: rest →
    ∃ t, step s = .next t ∧ t.csr.irq = false ∧
      t = { s with
        events := rest
        csr := { s.csr with
          lastCmd := w, doneFlag := false, err := false, errcode := 0, errInfo := 0, busy := true } }

/-- 60_exceptions.md R337: a CMD write while BUSY is dropped: CMD_OVR is set and nothing else changes. CMD_OVR then stays 1
until a STATUS write clears it or a reset occurs. -/
def Obligations.CmdWriteWhileBusyIsDropped : Prop :=
  (∀ (s : State) (w : Word) (rest : List Event), s.csr.busy = true → s.events = .hostWrite 0x010 w :: rest →
    step s = .next { s with events := rest, csr := { s.csr with cmdOvr := true } }) ∧
  ∀ s t : State, step s = .next t → s.csr.cmdOvr = true → t.csr.cmdOvr = false →
    (∃ v rest, s.events = .hostWrite 0x00C v :: rest ∧ v.getLsbD 3 = true) ∨
    (∃ v rest, s.events = .hostWrite 0x008 v :: rest ∧ v.getLsbD 1 = true) ∨
    ∃ rest, s.events = .powerOn :: rest

/-! Commands: the checks in their order, and the result with its frame. -/

/-- 40_control.md R150: NOP completes from every state; only DST_LEN, BUSY and DONE change. -/
def Obligations.NopCompletes : Prop :=
  ∀ s : State, CompletesWith .nop s 0 (fun _ => 0) { s.csr with dstLen := 0 }

/-- 42_turbo_encoder.md R193: the word of ILVCHK; it reports an illegal N, else the least entry that is not below N or repeats an earlier
one, clearing ILV_VALID with either error; else it sets ILV_VALID. -/
def Obligations.IlvchkValidatesTheTable : Prop :=
  decode 0x00000001 = .ok .ilvchk ∧ ∀ s : State,
    (¬ frameLegal s → FailsFrom { s.csr with ilvValid := false } .ilvchk s 0x11 0x024) ∧
    (∀ k, frameLegal s → k < s.frameN →
      (s.frameN ≤ s.ilvEntry k ∨ ∃ j, j < k ∧ s.ilvEntry j = s.ilvEntry k) →
      (∀ m, m < k → s.ilvEntry m < s.frameN ∧ ∀ j, j < m → s.ilvEntry j ≠ s.ilvEntry m) →
      FailsFrom { s.csr with ilvValid := false } .ilvchk s 0x12 (BitVec.ofNat 32 k)) ∧
    (s.holdsPermutation →
      CompletesWith .ilvchk s 0 (fun _ => 0) { s.csr with ilvValid := true, dstLen := 0 })

/-- 41_bitframe.md R172: the checks of PACK in order, and its output by the formula of R170. -/
def Obligations.PackFollowsItsRule : Prop :=
  decode 0x00000002 = .ok .pack ∧ ∀ s : State,
    (if s.srcLen % 8 ≠ 0 then FailsWith .pack s 0x02 s.csr.srcLen
      else if 0x100000 < s.srcLen then FailsWith .pack s 0x13 s.csr.srcLen
      else ∀ k, leastNonBinary s s.srcLen k → FailsWith .pack s 0x03 (BitVec.ofNat 32 k)) ∧
    (s.srcLen % 8 = 0 → s.srcLen ≤ 0x100000 → binarySrc s s.srcLen →
      CompletesWith .pack s (s.srcLen / 8) (refPacked s) { s.csr with dstLen := BitVec.ofNat 32 (s.srcLen / 8) })

/-- 41_bitframe.md R174: the checks of UNPACK in order, and its output by the formula of R171. -/
def Obligations.UnpackFollowsItsRule : Prop :=
  decode 0x00000003 = .ok .unpack ∧ ∀ s : State,
    (if 0x100000 < s.srcLen then FailsWith .unpack s 0x13 s.csr.srcLen
      else 0x100000 < 8 * s.srcLen → FailsWith .unpack s 0x13 (BitVec.ofNat 32 (8 * s.srcLen))) ∧
    (8 * s.srcLen ≤ 0x100000 →
      CompletesWith .unpack s (8 * s.srcLen) (refUnpacked s.src8) { s.csr with dstLen := BitVec.ofNat 32 (8 * s.srcLen) })

/-- 42_turbo_encoder.md R195: the checks of RSCENC in order; DST holds the frame twice (R199) and RSC1_STATE the final state
of the sequence of R190. -/
def Obligations.RscencFollowsItsRule : Prop :=
  decode 0x00000010 = .ok .rscenc ∧ ∀ s : State,
    (if ¬ frameLegal s then FailsWith .rscenc s 0x11 0x024
      else if ¬ constraintOk s then FailsWith .rscenc s 0x11 0x028
      else if ¬ tapsOk s then FailsWith .rscenc s 0x11 0x02C
      else if s.srcLen ≠ s.frameN then FailsWith .rscenc s 0x01 s.csr.srcLen
      else ∀ k, leastNonBinary s s.frameN k → FailsWith .rscenc s 0x03 (BitVec.ofNat 32 k)) ∧
    (frameLegal s → constraintOk s → tapsOk s → s.srcLen = s.frameN → binarySrc s s.frameN →
      ∃ st, refRscRun s s.frameN (fun i => (s.src8 i).toNat) st ∧
        CompletesWith .rscenc s (2 * s.frameN) (fun i => s.src8 (i % s.frameN))
          { s.csr with rsc1State := BitVec.ofNat 15 (st s.frameN), dstLen := BitVec.ofNat 32 (2 * s.frameN) })

/-- 42_turbo_encoder.md R196: the checks of ILV in order, and `Dst8(k) ← Src8(Ilv(k))`, where ILV_VALID means what R194 says
(the invariant `interleaverKept`; log entry 7 for other states). -/
def Obligations.IlvFollowsItsRule : Prop :=
  decode 0x00000011 = .ok .ilv ∧ ∀ s : State,
    (if ¬ frameLegal s then FailsWith .ilv s 0x11 0x024
      else if s.csr.ilvValid = false then FailsWith .ilv s 0x12 0xFFFFFFFF
      else s.srcLen ≠ s.frameN → FailsWith .ilv s 0x01 s.csr.srcLen) ∧
    (frameLegal s → s.csr.ilvValid = true → s.srcLen = s.frameN → s.interleaverKept →
      CompletesWith .ilv s s.frameN (fun k => s.src8 (s.ilvEntry k)) { s.csr with dstLen := BitVec.ofNat 32 s.frameN })

/-- 42_turbo_encoder.md R197: the checks of DILV in order, and `Dst8(Ilv(k)) ← Src8(k)`, where ILV_VALID means what R194
says (the invariant `interleaverKept`). -/
def Obligations.DilvFollowsItsRule : Prop :=
  decode 0x00000012 = .ok .dilv ∧ ∀ s : State,
    (if ¬ frameLegal s then FailsWith .dilv s 0x11 0x024
      else if s.csr.ilvValid = false then FailsWith .dilv s 0x12 0xFFFFFFFF
      else s.srcLen ≠ s.frameN → FailsWith .dilv s 0x01 s.csr.srcLen) ∧
    (frameLegal s → s.csr.ilvValid = true → s.srcLen = s.frameN → s.interleaverKept →
      ∃ out, (∀ k, k < s.frameN → out (s.ilvEntry k) = s.src8 k) ∧
        CompletesWith .dilv s s.frameN out { s.csr with dstLen := BitVec.ofNat 32 s.frameN })

/-- 42_turbo_encoder.md R198: the checks of TENC in order; DST holds the frame, the frame, and the interleaved frame
(R199, R200), RSC1_STATE and RSC2_STATE the final states of the sequences of R190 over the frame and over the interleaved
frame, each from 0. -/
def Obligations.TencFollowsItsRule : Prop :=
  decode 0x00000013 = .ok .tenc ∧ ∀ s : State,
    (if ¬ frameLegal s then FailsWith .tenc s 0x11 0x024
      else if ¬ constraintOk s then FailsWith .tenc s 0x11 0x028
      else if ¬ tapsOk s then FailsWith .tenc s 0x11 0x02C
      else if s.csr.ilvValid = false then FailsWith .tenc s 0x12 0xFFFFFFFF
      else if s.srcLen ≠ s.frameN then FailsWith .tenc s 0x01 s.csr.srcLen
      else ∀ k, leastNonBinary s s.frameN k → FailsWith .tenc s 0x03 (BitVec.ofNat 32 k)) ∧
    (frameLegal s → constraintOk s → tapsOk s → s.csr.ilvValid = true → s.srcLen = s.frameN → binarySrc s s.frameN →
      s.interleaverKept →
      ∃ st1 st2, refRscRun s s.frameN (fun i => (s.src8 i).toNat) st1 ∧
        refRscRun s s.frameN (fun i => (s.src8 (s.ilvEntry i)).toNat) st2 ∧
        CompletesWith .tenc s (3 * s.frameN)
          (fun i => if i < 2 * s.frameN then s.src8 (i % s.frameN) else s.src8 (s.ilvEntry (i - 2 * s.frameN)))
          { s.csr with
            rsc1State := BitVec.ofNat 15 (st1 s.frameN), rsc2State := BitVec.ofNat 15 (st2 s.frameN)
            dstLen := BitVec.ofNat 32 (3 * s.frameN) })

/-- 43_turbo_decoder.md R220: the words of TDEC, its checks in order, and the decisions of the last iteration of the loop,
whose priors start at zero and are the de-permuted extrinsic values of decoder 2, where ILV_VALID means what R194 says (the
invariant `interleaverKept`). -/
def Obligations.TdecFollowsItsRule : Prop :=
  (∀ i, decode 0x00000018 ≠ .ok i) ∧
  ∀ (iter : BitVec 8) (s : State), iter ≠ 0 →
    decode (BitVec.ofNat 32 (iter.toNat * 0x100 + 0x18)) = .ok (.tdec iter) ∧
    (if ¬ frameLegal s then FailsWith (.tdec iter) s 0x11 0x024
      else if s.csr.ilvValid = false then FailsWith (.tdec iter) s 0x12 0xFFFFFFFF
      else s.srcLen ≠ 3 * s.frameN → FailsWith (.tdec iter) s 0x08 s.csr.srcLen) ∧
    (frameLegal s → s.csr.ilvValid = true → s.srcLen = 3 * s.frameN → s.interleaverKept →
      ∃ prior : Nat → Nat → F64,
        (∀ i, i < s.frameN → prior 0 i = F64.zero) ∧
        (∀ it, it + 1 < iter.toNat → ∀ k, k < s.frameN →
          prior (it + 1) (s.ilvEntry k) =
            refExt (fun m => refRs s (s.ilvEntry m)) (refRp2 s)
              (fun m => refExt (refRs s) (refRp1 s) (prior it) (s.ilvEntry m)) k) ∧
        CompletesWith (.tdec iter) s s.frameN
          (fun i => if F64.gt (refLlr (refRs s) (refRp1 s) (prior (iter.toNat - 1)) i) F64.zero = true then 1 else 0)
          { s.csr with dstLen := BitVec.ofNat 32 s.frameN })

/-- The model's own choice for the ill-formed term `tdec 0`, which the decoder never gives (log entry 6): it completes as the
illegal word it would stand for. -/
def Obligations.IllFormedTdecCompletesAsIllegal : Prop :=
  ∀ s : State, FailsWith (.tdec 0) s 0x10 s.csr.lastCmd

/-- 46_framer.md R301: the checks of CRC in order, and CRC_RESULT; DST is not written. -/
def Obligations.CrcFollowsItsRule : Prop :=
  decode 0x00000020 = .ok .crc ∧ ∀ s : State,
    (if s.srcLen % 8 ≠ 0 then FailsWith .crc s 0x02 s.csr.srcLen
      else if 0x100000 < s.srcLen then FailsWith .crc s 0x13 s.csr.srcLen
      else ∀ k, leastNonBinary s s.srcLen k → FailsWith .crc s 0x03 (BitVec.ofNat 32 k)) ∧
    (s.srcLen % 8 = 0 → s.srcLen ≤ 0x100000 → binarySrc s s.srcLen →
      CompletesWith .crc s 0 (fun _ => 0)
        { s.csr with crcResult := refCrcOf s (refPacked s) (s.srcLen / 8), dstLen := 0 })

/-- 46_framer.md R302: the checks of FBUILD in order, and the cells of the frame of R305. -/
def Obligations.FbuildFollowsItsRule : Prop :=
  decode 0x00000021 = .ok .fbuild ∧ ∀ s : State,
    (if s.srcLen % 8 ≠ 0 then FailsWith .fbuild s 0x02 s.csr.srcLen
      else if 65535 < s.srcLen / 8 then FailsWith .fbuild s 0x14 (BitVec.ofNat 32 (s.srcLen / 8))
      else ∀ k, leastNonBinary s s.srcLen k → FailsWith .fbuild s 0x03 (BitVec.ofNat 32 k)) ∧
    (s.srcLen % 8 = 0 → s.srcLen / 8 ≤ 65535 → binarySrc s s.srcLen →
      CompletesWith .fbuild s (s.srcLen + 48) (refUnpacked (refFrame s))
        { s.csr with
          crcResult := refCrcOf s (refBody s) (4 + s.srcLen / 8)
          dstLen := BitVec.ofNat 32 (s.srcLen + 48) })

/-- 46_framer.md R303: the checks of FPARSE in order, with their details, and the declared payload cells. -/
def Obligations.FparseFollowsItsRule : Prop :=
  decode 0x00000022 = .ok .fparse ∧ ∀ s : State,
    let len := s.srcLen / 8
    let header := refField (refPacked s) 0
    let declared := refField (refPacked s) 2
    let computed := refCrcOf s (refPacked s) (len - 2)
    let received := refField (refPacked s) (len - 2)
    (if s.srcLen % 8 ≠ 0 then FailsWith .fparse s 0x02 s.csr.srcLen
      else if 0x100000 < s.srcLen then FailsWith .fparse s 0x13 s.csr.srcLen
      else
        (∀ k, leastNonBinary s s.srcLen k → FailsWith .fparse s 0x03 (BitVec.ofNat 32 k)) ∧
        (binarySrc s s.srcLen →
          if len < 6 then FailsWith .fparse s 0x05 (BitVec.ofNat 32 (0x80000000 + len))
          else if header ≠ s.csr.frHeader then FailsWith .fparse s 0x04 (header.setWidth 32)
          else if len - 6 < declared.toNat then FailsWith .fparse s 0x05 (declared.setWidth 32)
          else computed ≠ received →
            FailsWith .fparse s 0x06 (BitVec.ofNat 32 (received.toNat * 0x10000 + computed.toNat)))) ∧
    (s.srcLen % 8 = 0 → s.srcLen ≤ 0x100000 → binarySrc s s.srcLen → 6 ≤ len → header = s.csr.frHeader →
      declared.toNat ≤ len - 6 → computed = received →
      CompletesWith .fparse s (8 * declared.toNat) (fun i => s.src8 (32 + i))
        { s.csr with crcResult := computed, dstLen := BitVec.ofNat 32 (8 * declared.toNat) })

/-- 44_ask_modem.md R251: the checks of AMOD in order, and the bursts `amp ⊗ ACar(n)`. That a NaN element is some quiet NaN,
and so that a NaN carrier entry under a 1 bit is not copied bit for bit, is the model's choice (log entry 5). -/
def Obligations.AmodFollowsItsRule : Prop :=
  decode 0x00000030 = .ok .amod ∧ ∀ s : State,
    (if ¬ spbOk s then FailsWith .amod s 0x11 0x050
      else if 0x100000 < s.srcLen then FailsWith .amod s 0x13 s.csr.srcLen
      else if 0x100000 < 8 * s.srcLen * s.spb then FailsWith .amod s 0x13 (saturated (s.srcLen * s.spb))
      else ∀ k, leastNonBinary s s.srcLen k → FailsWith .amod s 0x09 (BitVec.ofNat 32 k)) ∧
    (spbOk s → 8 * s.srcLen * s.spb ≤ 0x100000 → binarySrc s s.srcLen →
      CompletesWithF64 .amod s (s.srcLen * s.spb)
        (fun m => F64.mul (if s.src8 (m / s.spb) = 1 then F64.one else F64.zero) (s.f64At .acar (m % s.spb)))
        { s.csr with dstLen := BitVec.ofNat 32 (s.srcLen * s.spb) })

/-- 44_ask_modem.md R252: the checks of ADEM in order, and the decision of each segment by its sequential correlation. The
threshold reads `f64(SPB)` as the conversion of the integer SPB, exact for every SPB (the model's reading, log entry 20). -/
def Obligations.AdemFollowsItsRule : Prop :=
  decode 0x00000031 = .ok .adem ∧
  (∀ n : Nat, n ≤ 65535 → F64.isFinite (F64.ofNat n) = true ∧ F64.value (F64.ofNat n) = n * 2 ^ 1074) ∧
  ∀ s : State,
    (if ¬ spbOk s then FailsWith .adem s 0x11 0x050
      else if s.srcLen % s.spb ≠ 0 then FailsWith .adem s 0x07 s.csr.srcLen
      else 0x100000 < 8 * s.srcLen → FailsWith .adem s 0x13 s.csr.srcLen) ∧
    (spbOk s → s.srcLen % s.spb = 0 → 8 * s.srcLen ≤ 0x100000 →
      ∃ acc : Nat → Nat → F64,
        (∀ j, acc j 0 = F64.zero ∧ ∀ n, n < s.spb →
          acc j (n + 1) = F64.add (acc j n) (F64.abs (F64.mul (s.src64 (j * s.spb + n)) (s.f64At .acar n)))) ∧
        CompletesWith .adem s (s.srcLen / s.spb)
          (fun j => if F64.gt (acc j s.spb) (F64.mul F64.quarter (F64.ofNat s.spb)) = true then 1 else 0)
          { s.csr with dstLen := BitVec.ofNat 32 (s.srcLen / s.spb) })

/-- 45_qpsk_modem.md R272: the checks of QMOD in order, and the shaped and mixed signal of R270, R273, R274 and R275. The
model's choices in it: a NaN sample is some quiet NaN (log entry 5), and Ls saturates as a detail (log entry 12). -/
def Obligations.QmodFollowsItsRule : Prop :=
  decode 0x00000038 = .ok .qmod ∧ ∀ s : State,
    (if s.sps = 0 then FailsWith .qmod s 0x11 0x054
      else if s.fl % 2 = 1 ∨ s.fl = 0 then FailsWith .qmod s 0x11 0x058
      else if s.nt = 0 ∨ 1024 < s.nt then FailsWith .qmod s 0x11 0x05C
      else if s.srcLen ≠ s.fl then FailsWith .qmod s 0x01 s.csr.srcLen
      else if 0x100000 < s.srcLen then FailsWith .qmod s 0x13 s.csr.srcLen
      else if 131072 < s.fl / 2 * s.sps + s.nt - 1 then
        FailsWith .qmod s 0x13 (saturated (s.fl / 2 * s.sps + s.nt - 1))
      else ∀ k, leastNonBinary s s.fl k → FailsWith .qmod s 0x03 (BitVec.ofNat 32 k)) ∧
    (qpskOk s → s.srcLen = s.fl → s.fl / 2 * s.sps + s.nt - 1 ≤ 131072 → binarySrc s s.fl →
      CompletesWithF64 .qmod s (s.fl / 2 * s.sps + s.nt - 1) (refQmod s)
        { s.csr with dstLen := BitVec.ofNat 32 (s.fl / 2 * s.sps + s.nt - 1) })

/-- 45_qpsk_modem.md R280: the checks of QDEM in order, and the decisions of R283 on the samples of R281 and R282. That Ls
saturates as a detail is the model's reading of R330 (log entry 12). -/
def Obligations.QdemFollowsItsRule : Prop :=
  decode 0x00000039 = .ok .qdem ∧ ∀ s : State,
    (if s.sps = 0 then FailsWith .qdem s 0x11 0x054
      else if s.fl % 2 = 1 ∨ s.fl = 0 then FailsWith .qdem s 0x11 0x058
      else if s.nt = 0 ∨ 1024 < s.nt then FailsWith .qdem s 0x11 0x05C
      else if ¬ sampleOk s then FailsWith .qdem s 0x11 0x060
      else if s.srcLen ≠ s.signalLen then FailsWith .qdem s 0x08 s.csr.srcLen
      else if 131072 < s.signalLen then FailsWith .qdem s 0x13 (saturated s.signalLen)
      else if 0x100000 < s.fl then FailsWith .qdem s 0x13 (BitVec.ofNat 32 s.fl)
      else s.csr.noiseEn = true → 131072 < s.fl → FailsWith .qdem s 0x13 (BitVec.ofNat 32 s.fl)) ∧
    (qpskOk s → sampleOk s → s.srcLen = s.signalLen → s.signalLen ≤ 131072 → s.fl ≤ 0x100000 →
      (s.csr.noiseEn = true → s.fl ≤ 131072) →
      CompletesWith .qdem s s.fl
        (fun i => if i % 2 = 0 then (if F64.lt (refSampleIm s (i / 2)) F64.zero = true then 1 else 0)
          else (if F64.lt (refSampleRe s (i / 2)) F64.zero = true then 1 else 0))
        { s.csr with dstLen := BitVec.ofNat 32 s.fl })

/-! Functions of the datapath. -/

/-- 46_framer.md R300: the CRC the commands use, under the parameters in the CRC registers, is the CRC of the rule's
pseudocode on numbers, for every byte sequence. -/
def Obligations.CrcMatchesItsPseudocode : Prop :=
  ∀ (c : Csr) (y : List Byte),
    (crc16 c.crcParams y).toNat =
      refCrc16 c.crcPoly.toNat c.crcInit.toNat c.crcXorout.toNat c.refin c.refout (y.map BitVec.toNat)

/-- 46_framer.md R304: the check values over the nine ASCII bytes "123456789". -/
def Obligations.CrcCheckValues : Prop :=
  let y : List Byte := [0x31, 0x32, 0x33, 0x34, 0x35, 0x36, 0x37, 0x38, 0x39]
  crc16 Csr.reset.crcParams y = 0xBB3D ∧ crc16 ⟨0x1021, 0xFFFF, 0, false, false⟩ y = 0x29B1 ∧
    crc16 ⟨0x1021, 0, 0, false, false⟩ y = 0x31C3

/-- 42_turbo_encoder.md R199: parity equals input, for every K, taps and frame, so the outputs do not depend on the
state. -/
def Obligations.RscParityEqualsInput : Prop :=
  ∀ (x : List Bool) (k a b : Nat), (rsc x k a b).sys = x ∧ (rsc x k a b).par = x

/-- 41_bitframe.md R171: unpacking undoes packing of a byte-aligned bit sequence, and packing undoes unpacking. -/
def Obligations.PackAndUnpackAreInverse : Prop :=
  (∀ b : List Bool, b.length % 8 = 0 → unpackBytes (packBits b) = b) ∧ ∀ y : List Byte, packBits (unpackBytes y) = y

/-- 42_turbo_encoder.md R192: deinterleaving, which puts `y[k]` at `π[k]`, undoes interleaving, and interleaving undoes
it, for every permutation π of [0, N). -/
def Obligations.DeinterleaveInvertsInterleave : Prop :=
  ∀ (n : Nat) (perm : List Nat) (x y : List Byte), perm.Perm (List.range n) → x.length = n → y.length = n →
    (∀ k, k < n → (scatter perm x y)[perm.getD k 0]? = x[k]?) ∧
    scatter perm (interleave 0 perm x) y = x ∧ interleave 0 perm (scatter perm x y) = x

/-- 00_scope.md R14: ⊕ of finite values is the exact sum rounded to nearest, ties to the even pattern, overflowing to the
infinity of its sign from half a last place above the largest finite value on; a zero sum is −0.0 only of two negative
zeros. A NaN operand gives a NaN, so do infinities of opposite signs, and an infinity absorbs everything else. Values are
counted in units of 2^-1074. -/
def Obligations.AdditionRoundsToNearestEven : Prop :=
  ∀ a b : F64,
    let v := F64.value a + F64.value b
    let r := F64.add a b
    (F64.isNaN a = true ∨ F64.isNaN b = true → F64.isNaN r = true) ∧
    (F64.isInf a = true → F64.isNaN b = false →
      if F64.isInf b = true ∧ F64.signBit a ≠ F64.signBit b then F64.isNaN r = true else r = a) ∧
    (F64.isFinite a = true → F64.isInf b = true → r = b) ∧
    (F64.isFinite a = true → F64.isFinite b = true →
      F64.isNaN r = false ∧
      (F64.isFinite r = true ↔ v.natAbs < (2 ^ 54 - 1) * 2 ^ 2044) ∧
      (F64.isInf r = true → F64.signBit r = decide (v < 0)) ∧
      (v = 0 → F64.signBit r = (F64.signBit a && F64.signBit b)) ∧
      (F64.isFinite r = true → ∀ c, F64.isFinite c = true →
        (F64.value r - v).natAbs ≤ (F64.value c - v).natAbs ∧
        ((F64.value r - v).natAbs = (F64.value c - v).natAbs → F64.value c ≠ F64.value r → r.getLsbD 0 = false)))

/-- 00_scope.md R14: ⊗ of finite values is the exact product rounded to nearest, ties to the even pattern, with the sign
of the product also on a zero result. A NaN operand gives a NaN, so does an infinity times a zero, and an infinity times
anything else is the infinity of the product's sign. Products are counted in units of 2^-2148. -/
def Obligations.MultiplicationRoundsToNearestEven : Prop :=
  ∀ a b : F64,
    let v := F64.value a * F64.value b
    let r := F64.mul a b
    (F64.isNaN a = true ∨ F64.isNaN b = true → F64.isNaN r = true) ∧
    (F64.isNaN a = false → F64.isNaN b = false → F64.isInf a = true ∨ F64.isInf b = true →
      if v = 0 then F64.isNaN r = true
      else F64.isInf r = true ∧ F64.signBit r = (F64.signBit a != F64.signBit b)) ∧
    (F64.isFinite a = true → F64.isFinite b = true →
      F64.isNaN r = false ∧ F64.signBit r = (F64.signBit a != F64.signBit b) ∧
      (F64.isFinite r = true ↔ v.natAbs < (2 ^ 54 - 1) * 2 ^ 2044 * 2 ^ 1074) ∧
      (F64.isFinite r = true → ∀ c, F64.isFinite c = true →
        (F64.value r * 2 ^ 1074 - v).natAbs ≤ (F64.value c * 2 ^ 1074 - v).natAbs ∧
        ((F64.value r * 2 ^ 1074 - v).natAbs = (F64.value c * 2 ^ 1074 - v).natAbs → F64.value c ≠ F64.value r →
          r.getLsbD 0 = false)))

/-- 00_scope.md R14: the operations that round nothing. A comparison with a NaN is false, else it compares values, the
infinities outermost; `neg` flips and `abs` clears the sign bit alone; ⊖ adds the negated operand; and the constants. -/
def Obligations.ComparisonsSignsAndConstants : Prop :=
  (∀ a b : F64, (F64.lt a b = true ↔ F64.isNaN a = false ∧ F64.isNaN b = false ∧ refLess a b) ∧
    F64.gt a b = F64.lt b a ∧ F64.sub a b = F64.add a (F64.neg b)) ∧
  (∀ a : F64, F64.signBit (F64.neg a) = !F64.signBit a ∧ F64.signBit (F64.abs a) = false ∧
    ∀ k, k < 63 → (F64.neg a).getLsbD k = a.getLsbD k ∧ (F64.abs a).getLsbD k = a.getLsbD k) ∧
  F64.zero = 0 ∧ F64.value F64.one = 2 ^ 1074 ∧ F64.value F64.two = 2 * 2 ^ 1074 ∧
  4 * F64.value F64.quarter = 2 ^ 1074 ∧ F64.ampA = 0x3FE6A09E667F3BCC

/-- 45_qpsk_modem.md R283: for finite samples the two decided bits name the constellation point of R270 at the least exact
distance, and the one with the lower index `v = 2·b0 + b1` on a tie. -/
def Obligations.SlicerTakesTheNearestPoint : Prop :=
  ∀ (qr qi : F64) (b0 b1 c0 c1 : Bool), F64.isFinite qr = true → F64.isFinite qi = true → slice qr qi = [b0, b1] →
    let dist := fun (x0 x1 : Bool) =>
      (F64.value qr - F64.value (qpskLevel x1)) ^ 2 + (F64.value qi - F64.value (qpskLevel x0)) ^ 2
    dist b0 b1 ≤ dist c0 c1 ∧
      (dist b0 b1 = dist c0 c1 → 2 * b0.toNat + b1.toNat ≤ 2 * c0.toNat + c1.toNat)

/-! What the pipeline computes. -/

/-- 43_turbo_decoder.md R225: the closed form of TDEC. With one iteration the output bit is 1 iff `c1[i] > 0.0`; with more
it is also 0 on the poisoned set. -/
def Obligations.TdecHasItsClosedForm : Prop :=
  ∀ (iter : BitVec 8) (s : State), iter ≠ 0 → s.csr.ilvValid = true → s.interleaverKept → s.srcLen = 3 * s.frameN →
    ∃ t, exec (.tdec iter) s = .next t ∧ ∀ i, i < s.frameN →
      (t.dst8 i = 0 ∨ t.dst8 i = 1) ∧
      (t.dst8 i = 1 ↔ F64.gt (refC1 s i) F64.zero = true ∧ (iter = 1 ∨ ¬ poisoned s i))

/-- 43_turbo_decoder.md R226: TDEC returns the frame `x` from the proxy image of `x ‖ x ‖ interleave(x)`, for either proxy
and every iteration count; and so it does from the proxy image of what TENC writes for the frame. In the second part `u`
is a state in which the host has put that image into SRC, under the same N and interleaver. -/
def Obligations.TdecUndoesTencOverAProxy : Prop :=
  (∀ (iter : BitVec 8) (pm : Bool) (x : Nat → Bool) (s : State), iter ≠ 0 → s.csr.ilvValid = true → s.interleaverKept →
    s.srcLen = 3 * s.frameN →
    (∀ i, i < s.frameN → s.src64 i = refProxy pm (x i) ∧ s.src64 (s.frameN + i) = refProxy pm (x i) ∧
      s.src64 (2 * s.frameN + i) = refProxy pm (x (s.ilvEntry i))) →
    ∃ t, exec (.tdec iter) s = .next t ∧ t.csr.dstLen = s.csr.frameLen.setWidth 32 ∧
      ∀ i, i < s.frameN → t.dst8 i = if x i then 1 else 0) ∧
  ∀ (iter : BitVec 8) (pm : Bool) (s u : State), iter ≠ 0 → frameLegal s → constraintOk s → tapsOk s →
    s.csr.ilvValid = true → s.interleaverKept → s.srcLen = s.frameN → binarySrc s s.frameN →
    u.csr.ilvValid = true → u.csr.frameLen = s.csr.frameLen → (∀ k, k < s.frameN → u.ilvEntry k = s.ilvEntry k) →
    u.srcLen = 3 * s.frameN →
    ∃ t, exec .tenc s = .next t ∧
      ((∀ m, m < 3 * s.frameN → u.src64 m = refProxy pm (decide (t.dst8 m = 1))) →
        ∃ v, exec (.tdec iter) u = .next v ∧ v.csr.err = u.csr.err ∧ v.csr.dstLen = s.csr.srcLen ∧
          ∀ i, i < s.frameN → v.dst8 i = s.src8 i)

/-- 44_ask_modem.md R253: with a finite carrier table, ADEM of AMOD's output gives back each 1 exactly when the carrier's
energy exceeds the threshold, and each 0 always (the threshold by log entry 20). `u` is a state in which the host has copied the samples to SRC. -/
def Obligations.AdemUndoesAmodAboveTheThreshold : Prop :=
  ∀ s u : State, spbOk s → 8 * s.srcLen * s.spb ≤ 0x100000 → binarySrc s s.srcLen →
    (∀ n, n < s.spb → F64.isFinite (s.f64At .acar n) = true) →
    u.csr.askSpb = s.csr.askSpb → u.srcLen = s.srcLen * s.spb →
    (∀ n, n < s.spb → u.f64At .acar n = s.f64At .acar n) →
    ∃ t, exec .amod s = .next t ∧
      ((∀ m, m < u.srcLen → u.src64 m = t.f64At .dst m) →
        ∃ v, exec .adem u = .next v ∧ v.csr.dstLen = s.csr.srcLen ∧
          ∀ j, j < s.srcLen → v.dst8 j =
            if s.src8 j = 1 ∧ F64.gt (askCorrelate (s.table .acar s.spb) (s.table .acar s.spb)) (askThreshold s.spb) = true
            then 1 else 0)

/-- 46_framer.md R308: FPARSE of FBUILD's output gives back the payload, for every value of the CRC registers and the
header. `u` is a state in which the host has copied the frame to SRC. -/
def Obligations.FparseUndoesFbuild : Prop :=
  ∀ s u : State, s.srcLen % 8 = 0 → s.srcLen / 8 ≤ 65535 → binarySrc s s.srcLen →
    u.csr.crcParams = s.csr.crcParams → u.csr.frHeader = s.csr.frHeader → u.srcLen = s.srcLen + 48 →
    ∃ t, exec .fbuild s = .next t ∧
      ((∀ i, i < u.srcLen → u.src8 i = t.dst8 i) →
        ∃ v, exec .fparse u = .next v ∧ v.csr.err = u.csr.err ∧ v.csr.dstLen = s.csr.srcLen ∧
          v.csr.crcResult = t.csr.crcResult ∧ ∀ i, i < s.srcLen → v.dst8 i = s.src8 i)

/-- 46_framer.md R309: FPARSE of a built frame with exactly one bit flipped completes with an error whenever
CRC_POLY ≠ 0: HeaderMismatch in the header, IncompleteFrame or CrcMismatch in the length, CrcMismatch after it. With
CRC_POLY = 0 a header flip and a flip that raises the length are still reported and a payload flip is not, as R309 says; for
a flip that lowers the length (accepted) and one in the CRC field (CrcMismatch) the model follows R303 (log entry 21). -/
def Obligations.FparseDetectsASingleFlippedBit : Prop :=
  ∀ (s u : State) (b : Nat), s.srcLen % 8 = 0 → s.srcLen / 8 ≤ 65535 → binarySrc s s.srcLen →
    u.csr.crcParams = s.csr.crcParams → u.csr.frHeader = s.csr.frHeader → u.srcLen = s.srcLen + 48 → b < u.srcLen →
    ∃ t, exec .fbuild s = .next t ∧
      ((∀ i, i < u.srcLen → u.src8 i = if i = b then t.dst8 i ^^^ 1 else t.dst8 i) →
        let declared := (refField (refPacked u) 2).toNat
        ∃ v, exec .fparse u = .next v ∧
          (s.csr.crcPoly ≠ 0 → v.csr.err = true ∧
            (if b < 16 then v.csr.errcode = 0x04
              else if b < 32 then v.csr.errcode = 0x05 ∨ v.csr.errcode = 0x06
              else v.csr.errcode = 0x06)) ∧
          (s.csr.crcPoly = 0 →
            if b < 16 then v.csr.err = true ∧ v.csr.errcode = 0x04
            else if b < 32 ∧ s.srcLen / 8 < declared then v.csr.err = true ∧ v.csr.errcode = 0x05
            else if b < 32 + s.srcLen then
              v.csr.err = u.csr.err ∧ v.csr.errcode = u.csr.errcode ∧ v.csr.dstLen = BitVec.ofNat 32 (8 * declared)
            else v.csr.err = true ∧ v.csr.errcode = 0x06))

/-! Whole-machine rules. -/

/-- 60_exceptions.md R333 and R336: every command answers a next state that is IDLE with DONE; either ERR and the error
report are as before (a success), or it reports an error precisely: only ERRCODE, ERR_INFO, ERR, DST_LEN and the end of
the completion changed, ILV_VALID too for ILVCHK, and no byte of memory. Outside DST no byte changes in either case. -/
def Obligations.EveryCommandCompletesPrecisely : Prop :=
  ∀ (i : Instr) (s : State), ∃ t, exec i s = .next t ∧ bookkeeping s t ∧ t.csr.busy = false ∧ t.csr.doneFlag = true ∧
    (∀ a, (a < 0x200000 ∨ 0x300000 ≤ a) → t.readByte a = s.readByte a) ∧
    ((t.csr.err = s.csr.err ∧ t.csr.errcode = s.csr.errcode ∧ t.csr.errInfo = s.csr.errInfo) ∨
     ((∀ a, t.readByte a = s.readByte a) ∧ t.csr.errcode ≠ 0 ∧
       t.csr = { s.csr with
         errcode := t.csr.errcode, errInfo := t.csr.errInfo, err := true, dstLen := 0, busy := false, doneFlag := true
         ilvValid := if i = .ilvchk then false else s.csr.ilvValid }))

/-- 20_memory.md R92: a command writes only its output, DST bytes 0 to `out_bytes` − 1 (DST_LEN elements, of 8 bytes for
AMOD and QMOD and of 1 byte for the others), which lies in the DST region; every other byte of memory keeps its value. -/
def Obligations.CommandsWriteOnlyTheirOutput : Prop :=
  ∀ (i : Instr) (s t : State), exec i s = .next t →
    let outBytes := t.csr.dstLen.toNat * (if i = .amod ∨ i = .qmod then 8 else 1)
    outBytes ≤ 0x100000 ∧ ∀ a, (a < 0x200000 ∨ 0x200000 + outBytes ≤ a) → t.readByte a = s.readByte a

/-- 10_state.md R57 and R60: no command changes a configuration register, IRQ_EN, CMD_OVR, ACC_ERR, ACC_ADDR or LAST_CMD;
only ILVCHK changes ILV_VALID, only RSCENC and TENC RSC1_STATE, only TENC RSC2_STATE, only CRC, FBUILD and FPARSE
CRC_RESULT. -/
def Obligations.CommandsKeepTheOtherRegisters : Prop :=
  ∀ (i : Instr) (s t : State), exec i s = .next t →
    t.csr = { s.csr with
      busy := t.csr.busy, doneFlag := t.csr.doneFlag, err := t.csr.err, errcode := t.csr.errcode
      errInfo := t.csr.errInfo, dstLen := t.csr.dstLen
      ilvValid := if i = .ilvchk then t.csr.ilvValid else s.csr.ilvValid
      rsc1State := if i = .rscenc ∨ i = .tenc then t.csr.rsc1State else s.csr.rsc1State
      rsc2State := if i = .tenc then t.csr.rsc2State else s.csr.rsc2State
      crcResult := if i = .crc ∨ i = .fbuild ∨ i = .fparse then t.csr.crcResult else s.csr.crcResult }

/-- The memory stays in its canonical form and holds RAM bytes only, whatever a step does (20_memory.md R91, R92, R96; the
canonical form is the model's own, log entry 3). -/
def Obligations.StepKeepsMemoryForm : Prop :=
  ∀ s t : State, s.memoryKept → step s = .next t → t.memoryKept

/-- 42_turbo_encoder.md R194: whenever ILV_VALID = 1, ILV entries 0 to N − 1 form a permutation of [0, N) for the current
FRAME_LEN.N; every step keeps it so. -/
def Obligations.StepKeepsIlvValidMeaning : Prop :=
  ∀ s t : State, s.interleaverKept → step s = .next t → t.interleaverKept

/-- 10_state.md R37, R40, R41, R43, 60_exceptions.md R330, R335, R336: every step keeps the error channel consistent. -/
def Obligations.StepKeepsReportsConsistent : Prop :=
  ∀ s t : State, s.csr.reportsKept → step s = .next t → t.csr.reportsKept

/-- The state after power-on reset meets the three invariants. -/
def Obligations.ResetMeetsTheInvariants : Prop :=
  State.reset.memoryKept ∧ State.reset.interleaverKept ∧ State.reset.csr.reportsKept

/-- 10_state.md section 3, 70_reset_and_hazards.md R370: what a host read of each register returns after reset; the block is
IDLE and IRQ is low. -/
def Obligations.ResetRegisterValues : Prop :=
  (∀ p ∈ ([(0x000, 0x50534C43), (0x004, 0x00000001), (0x008, 0), (0x00C, 0), (0x010, 0), (0x014, 0), (0x018, 0),
      (0x01C, 0), (0x020, 0), (0x024, 0x00000400), (0x028, 0x00000003), (0x02C, 0x00000001), (0x030, 0), (0x034, 0),
      (0x038, 0x0000AA55), (0x03C, 0x00008005), (0x040, 0), (0x044, 0), (0x048, 0x00000003), (0x04C, 0), (0x050, 0),
      (0x054, 0), (0x058, 0), (0x05C, 0), (0x060, 0), (0x064, 0), (0x068, 0)] : List (Addr × Word)),
    accessCause State.reset false p.1 = none ∧ busValue State.reset p.1 = p.2) ∧
    State.reset.csr.busy = false ∧ State.reset.csr.irq = false

/-- 70_reset_and_hazards.md R372, 10_state.md R38: a CTRL write with SOFT_RESET = 1 resets every CSR at any time, ignoring
IRQ_EN of the same write; RAM keeps its contents, except DST when a command was aborted; no completion happens. -/
def Obligations.SoftResetResetsTheRegisters : Prop :=
  ∀ (s : State) (v : Word) (rest : List Event), v.getLsbD 1 = true → s.events = .hostWrite 0x008 v :: rest →
    ∃ t, step s = .next t ∧ t.csr = Csr.reset ∧ t.events = rest ∧ t.reads = s.reads ∧ t.completions = s.completions ∧
      (s.csr.busy = false → ∀ a, t.readByte a = s.readByte a) ∧
      ∀ a, (a < 0x200000 ∨ 0x300000 ≤ a) → t.readByte a = s.readByte a

/-- 70_reset_and_hazards.md R370, 20_memory.md R104: power-on reset at any time puts every CSR at its reset value and leaves no
byte of RAM with what was written to it; the bus side stays (the model's choice, log entry 11). -/
def Obligations.PowerOnResetForgetsEverything : Prop :=
  ∀ (s : State) (rest : List Event), s.events = .powerOn :: rest →
    ∃ t, step s = .next t ∧ t.csr = Csr.reset ∧ (∀ a, t.ram.lookup a = none) ∧ t.events = rest ∧ t.reads = s.reads ∧
      t.completions = s.completions

/-- 10_state.md R38: a CTRL write with SOFT_RESET = 0 sets IRQ_EN to bit 0 and changes nothing else, BUSY or not. -/
def Obligations.CtrlWriteSetsIrqEnable : Prop :=
  ∀ (s : State) (v : Word) (rest : List Event), v.getLsbD 1 = false → s.events = .hostWrite 0x008 v :: rest →
    step s = .next { s with events := rest, csr := { s.csr with irqEn := v.getLsbD 0 } }

/-- 10_state.md R37: a STATUS write clears each of DONE, ERR, CMD_OVR and ACC_ERR where its bit is 1, and changes nothing
else. -/
def Obligations.StatusWriteClearsWrittenOnes : Prop :=
  ∀ (s : State) (v : Word) (rest : List Event), s.events = .hostWrite 0x00C v :: rest →
    step s = .next { s with
      events := rest
      csr := { s.csr with
        doneFlag := if v.getLsbD 1 then false else s.csr.doneFlag
        err := if v.getLsbD 2 then false else s.csr.err
        cmdOvr := if v.getLsbD 3 then false else s.csr.cmdOvr
        accErr := if v.getLsbD 4 then false else s.csr.accErr } }

/-- 10_state.md R34 and the field widths of R42 to R56: in IDLE each configuration register reads back what was written,
in the bits it has, the others reading 0; nothing else of the register file changes but ILV_VALID by FRAME_LEN (R44), and
no byte of memory. -/
def Obligations.ConfigurationReadsBackItsFields : Prop :=
  ∀ p ∈ ([(0x01C, 0xFFFFFFFF), (0x024, 0x0000FFFF), (0x028, 0x0000001F), (0x02C, 0x00000F0F), (0x038, 0x0000FFFF),
      (0x03C, 0x0000FFFF), (0x040, 0x0000FFFF), (0x044, 0x0000FFFF), (0x048, 0x00000003), (0x050, 0x0000FFFF),
      (0x054, 0x0000FFFF), (0x058, 0x001FFFFF), (0x05C, 0x000007FF), (0x060, 0x031FFFFF), (0x064, 0x00000001)] :
      List (Addr × Word)),
    ∀ (s : State) (v : Word) (rest : List Event), s.csr.busy = false →
      s.events = .hostWrite p.1 v :: .hostRead p.1 :: rest →
      ∃ t, Host.Core.run Sys2Proof.core 2 s = .next t ∧ t.events = rest ∧ t.reads = (v &&& p.2) :: s.reads ∧
        t.completions = s.completions ∧ (∀ a, t.readByte a = s.readByte a) ∧ t.csr = refOthersKept p.1 s.csr t.csr

/-- 10_state.md R34 to R58: at any time, BUSY or not, a host read of a register returns its fields at their bit places, the
reserved bits 0, and changes nothing; a host write to a read-only register changes nothing at all, ACC_ERR included. -/
def Obligations.RegistersReadTheirFields : Prop :=
  ∀ (s : State) (a : Addr) (v : Word) (rest : List Event), a.toNat % 4 = 0 → a.toNat ≤ 0x068 →
    (s.events = .hostRead a :: rest →
      ∃ x, step s = .next { s with events := rest, reads := x :: s.reads } ∧ x.toNat = refRegister s.csr a.toNat) ∧
    (a.toNat ∈ [0x000, 0x004, 0x014, 0x018, 0x020, 0x030, 0x034, 0x04C, 0x068] → s.events = .hostWrite a v :: rest →
      step s = .next { s with events := rest })

/-- 20_memory.md R96: an illegal access reads 0 or writes nothing; it notes itself in ACC_ADDR if ACC_ERR was 0 and sets
ACC_ERR; MISALIGNED wins over RESERVED, RESERVED over BUSY. A legal read changes nothing. -/
def Obligations.IllegalAccessesOnlyNoteThemselves : Prop :=
  ∀ (s : State) (a : Addr) (v : Word) (cause : BitVec 2) (rest : List Event),
    (refCause s false a = some cause → s.events = .hostRead a :: rest →
      step s = .next { s with events := rest, reads := 0 :: s.reads, csr := refNoted s.csr cause false a }) ∧
    (refCause s true a = some cause → s.events = .hostWrite a v :: rest →
      step s = .next { s with events := rest, csr := refNoted s.csr cause true a }) ∧
    (refCause s false a = none → s.events = .hostRead a :: rest →
      ∃ x, step s = .next { s with events := rest, reads := x :: s.reads })

/-- 20_memory.md R93 and R97, 42_turbo_encoder.md R194: in IDLE an aligned RAM read returns the four bytes, least
significant first; a RAM write replaces them, and in the ILV region clears ILV_VALID; nothing else changes. -/
def Obligations.RamAccessesMoveFourBytes : Prop :=
  ∀ (s : State) (a : Addr) (v : Word) (rest : List Event), s.csr.busy = false → a.toNat % 4 = 0 → refRam a.toNat →
    (s.events = .hostRead a :: rest →
      step s = .next { s with
        events := rest
        reads := (s.readByte (a.toNat + 3) ++ s.readByte (a.toNat + 2) ++ s.readByte (a.toNat + 1)
          ++ s.readByte a.toNat : BitVec (8 + 8 + 8 + 8)) :: s.reads }) ∧
    (s.events = .hostWrite a v :: rest →
      ∃ t, step s = .next t ∧ t.events = rest ∧ t.reads = s.reads ∧
        t.csr = { s.csr with ilvValid := if a.toNat ≤ 0x013FFF then false else s.csr.ilvValid } ∧
        (∀ j, j < 4 → t.readByte (a.toNat + j) = v.extractLsb' (8 * j) 8) ∧
        ∀ x, (x < a.toNat ∨ a.toNat + 4 ≤ x) → t.readByte x = s.readByte x)

/-- 60_exceptions.md R340: after every completion IRQ equals IRQ_EN; it is low after an acceptance, after a STATUS write
that clears DONE, after IRQ_EN is cleared, and after a soft reset; setting IRQ_EN while DONE = 1 raises it. -/
def Obligations.InterruptFollowsDone : Prop :=
  (∀ (i : Instr) (s t : State), exec i s = .next t → t.csr.irq = s.csr.irqEn) ∧
    ∀ (s t : State) (v : Word) (rest : List Event), step s = .next t →
      (s.csr.busy = false → s.events = .hostWrite 0x010 v :: rest → t.csr.irq = false) ∧
      (s.events = .hostWrite 0x00C v :: rest → v.getLsbD 1 = true → t.csr.irq = false) ∧
      (s.events = .hostWrite 0x008 v :: rest → v.getLsbD 1 = true ∨ v.getLsbD 0 = false → t.csr.irq = false) ∧
      (s.events = .hostWrite 0x008 v :: rest → v.getLsbD 1 = false → v.getLsbD 0 = true → s.csr.doneFlag = true →
        t.csr.irq = true)

/-- 10_state.md R57, R63, 70_reset_and_hazards.md R376: as long as the block stays BUSY, a step changes no byte of memory,
no configuration register, no result register and not the latched command. -/
def Obligations.BusyBlockIsFrozen : Prop :=
  ∀ s t : State, s.csr.busy = true → step s = .next t → t.csr.busy = true →
    (∀ a, t.readByte a = s.readByte a) ∧
    t.csr = { s.csr with
      irqEn := t.csr.irqEn, doneFlag := t.csr.doneFlag, err := t.csr.err, cmdOvr := t.csr.cmdOvr
      accErr := t.csr.accErr, accAddr := t.csr.accAddr, accCause := t.csr.accCause, accWr := t.csr.accWr }

/-- 10_state.md R58 and R60: what may set each flag. DONE rises only in a completion, ERR only in one with an error, BUSY only
by an accepted CMD write, which is also what changes LAST_CMD but for a reset to 0; CMD_OVR only by a CMD write while BUSY,
ACC_ERR only in an illegal host access, ILV_VALID only by ILVCHK. -/
def Obligations.FlagsAreSetOnlyAsListed : Prop :=
  ∀ s t : State, step s = .next t →
    (s.csr.doneFlag = false → t.csr.doneFlag = true → s.csr.busy = true ∧ t.csr.busy = false) ∧
    (s.csr.err = false → t.csr.err = true → s.csr.busy = true ∧ t.csr.busy = false ∧ t.csr.errcode ≠ 0) ∧
    (s.csr.busy = false → t.csr.busy = true → ∃ w rest, s.events = .hostWrite 0x010 w :: rest ∧ t.csr.lastCmd = w) ∧
    (t.csr.lastCmd ≠ s.csr.lastCmd → t.csr.lastCmd = 0 ∨
      (s.csr.busy = false ∧ ∃ w rest, s.events = .hostWrite 0x010 w :: rest ∧ t.csr.lastCmd = w)) ∧
    (s.csr.cmdOvr = false → t.csr.cmdOvr = true → s.csr.busy = true ∧ ∃ w rest, s.events = .hostWrite 0x010 w :: rest) ∧
    (s.csr.accErr = false → t.csr.accErr = true →
      ∃ a rest, (s.events = .hostRead a :: rest ∧ refCause s false a ≠ none) ∨
        ((∃ v, s.events = .hostWrite a v :: rest) ∧ refCause s true a ≠ none)) ∧
    (s.csr.ilvValid = false → t.csr.ilvValid = true →
      s.csr.busy = true ∧ s.csr.lastCmd = 0x00000001 ∧ t.csr.busy = false)

/-- 70_reset_and_hazards.md R383 and R384: from every state, a run takes each pending event and then completes what is
still BUSY: one step more than there are events always reaches the end of the run, with no fault and no refusal. That an
empty event list lets a BUSY sequencer complete in one step is the model's choice (log entry 1). -/
def Obligations.EveryRunFinishes : Prop :=
  ∀ s : State, ∃ t, Host.Core.run Sys2Proof.core (s.events.length + 1) s = .next t ∧ t.finished

/-- 70_reset_and_hazards.md R378 and 30_encoding.md R135: no command reads DST. Two states that differ in DST contents only
get the same registers and the same output bytes from every command (8 bytes per element for AMOD and QMOD, 1 for the
others). The bits of a NaN that AMOD or QMOD writes out are free, but the model lets them depend on the count of completions
and the index only (its choice, log entry 5): hence the premise on `completions`. -/
def Obligations.NoCommandReadsDst : Prop :=
  ∀ (i : Instr) (s s' t t' : State), s'.csr = s.csr → s'.completions = s.completions → s.interleaverKept →
    (∀ a, (a < 0x200000 ∨ 0x300000 ≤ a) → s'.readByte a = s.readByte a) →
    exec i s = .next t → exec i s' = .next t' →
    t'.csr = t.csr ∧
      ∀ j, j < t.csr.dstLen.toNat * (if i = .amod ∨ i = .qmod then 8 else 1) → t'.dst8 j = t.dst8 j

/-- 20_memory.md R91 and 10_state.md R34, R59: an address is a RAM address exactly in the ranges of the map, and a register
exactly at the word offsets 0x000 to 0x068. -/
def Obligations.AddressMapAsListed : Prop :=
  ∀ a : Nat,
    regionOf a =
      (if 0x010000 ≤ a ∧ a ≤ 0x013FFF then some .ilv
        else if 0x020000 ≤ a ∧ a ≤ 0x021FFF then some .tap
        else if 0x030000 ≤ a ∧ a ≤ 0x03FFFF then some .acar
        else if 0x100000 ≤ a ∧ a ≤ 0x1FFFFF then some .src
        else if 0x200000 ≤ a ∧ a ≤ 0x2FFFFF then some .dst
        else if 0x300000 ≤ a ∧ a ≤ 0x3FFFFF then some .qcos
        else if 0x400000 ≤ a ∧ a ≤ 0x4FFFFF then some .qsin
        else if 0x500000 ≤ a ∧ a ≤ 0x5FFFFF then some .noise
        else none) ∧
    ((regOf a).isSome = true ↔ a % 4 = 0 ∧ a ≤ 0x068)
end

