-- ==== Sys2Proof/Laws/Memory.lean ====
section
/-! SUPPORT. What the memory operations do, one lemma for each: what a lookup finds after them, and that they keep the
canonical form. -/

namespace Sys2Proof.Machine

theorem cellsFrom_length (bs : List Byte) : ∀ a, (cellsFrom a bs).length = bs.length := by
  induction bs with
  | nil => intro a; rfl
  | cons b bs ih => intro a; simp [cellsFrom, ih]

/-- Every cell of a block lies in the block's address range. -/
theorem cellsFrom_range {bs : List Byte} : ∀ {a : Nat} {c : Host.Cell}, c ∈ cellsFrom a bs → a ≤ c.1 ∧ c.1 < a + bs.length := by
  induction bs with
  | nil => intro a c h; simp [cellsFrom] at h
  | cons b bs ih =>
    intro a c h
    simp only [cellsFrom, List.mem_cons] at h
    rcases h with rfl | h
    · simp
    · have := ih h
      simp only [List.length_cons]
      omega

/-- A lookup in a block finds the byte at the address's offset, and nothing outside the block. -/
theorem lookup_cellsFrom (bs : List Byte) : ∀ a x,
    (cellsFrom a bs).lookup x = if a ≤ x ∧ x < a + bs.length then bs[x - a]? else none := by
  induction bs with
  | nil => intro a x; simp [cellsFrom]
  | cons b bs ih =>
    intro a x
    simp only [cellsFrom, List.lookup_cons, List.length_cons, ih]
    by_cases hx : x = a
    · subst hx; simp
    · have hb : (x == a) = false := by simpa using hx
      simp only [hb]
      by_cases h1 : a + 1 ≤ x ∧ x < a + 1 + bs.length
      · have h2 : a ≤ x ∧ x < a + (bs.length + 1) := by omega
        have h3 : x - a = (x - (a + 1)) + 1 := by omega
        simp [h1, h2, h3]
      · have h2 : ¬ (a ≤ x ∧ x < a + (bs.length + 1)) := by omega
        simp only [h1, h2, if_false]

/-- Filtering by address keeps the lookups of the addresses kept and drops the others. -/
theorem lookup_filter (p : Nat → Bool) (cs : List Host.Cell) (x : Nat) :
    (cs.filter (fun c => p c.1)).lookup x = if p x then cs.lookup x else none := by
  induction cs with
  | nil => simp
  | cons c cs ih =>
    obtain ⟨a, b⟩ := c
    by_cases hx : x = a
    · subst hx
      by_cases hp : p x
      · simp [hp]
      · simp [hp, ih]
    · have hb : (x == a) = false := by simpa using hx
      by_cases hp : p a
      · simp [hp, List.lookup_cons, hb, ih]
      · simp [hp, List.lookup_cons, hb, ih]

theorem lookup_append (cs ds : List Host.Cell) (x : Nat) :
    (cs ++ ds).lookup x = (cs.lookup x).or (ds.lookup x) := by
  induction cs with
  | nil => simp
  | cons c cs ih =>
    obtain ⟨a, b⟩ := c
    by_cases hx : (x == a) = true
    · simp [List.lookup_cons, hx]
    · simp only [Bool.not_eq_true] at hx
      simp [List.lookup_cons, hx, ih]

/-- Read after write: inside the block the byte written, outside it what was there before. -/
theorem Memory.lookup_write (m : Memory) (a : Nat) (bs : List Byte) (x : Nat) :
    (m.write a bs).lookup x = if a ≤ x ∧ x < a + bs.length then bs[x - a]? else m.lookup x := by
  cases bs with
  | nil => simp [Memory.write]
  | cons b bs =>
    have h1 := lookup_filter (fun n => decide (n < a)) m.cells x
    have h2 := lookup_filter (fun n => decide (a + (b :: bs).length ≤ n)) m.cells x
    simp only [Memory.write, Memory.lookup, lookup_append, lookup_cellsFrom, h1, h2]
    by_cases hin : a ≤ x ∧ x < a + (b :: bs).length
    · have hlt : ¬ x < a := by omega
      have hge : ¬ a + (b :: bs).length ≤ x := by omega
      simp only [hlt, hge, hin, decide_false, and_self, if_true, Bool.false_eq_true, if_false, Option.none_or,
        Option.or_none]
    · by_cases hlt : x < a
      · have hge : ¬ a + (b :: bs).length ≤ x := by omega
        simp only [hlt, hge, hin, decide_true, decide_false, if_true, if_false, Bool.false_eq_true, Option.or_none]
      · have hge : a + (b :: bs).length ≤ x := by omega
        simp only [hlt, hge, hin, decide_true, decide_false, if_true, if_false, Bool.false_eq_true, Option.none_or]

/-- A write leaves every address outside its block alone. -/
theorem Memory.lookup_write_outside (m : Memory) (a : Nat) (bs : List Byte) {x : Nat} (h : x < a ∨ a + bs.length ≤ x) :
    (m.write a bs).lookup x = m.lookup x := by
  rw [Memory.lookup_write, if_neg (by omega)]

/-- Read after write at an address of the block. -/
theorem Memory.lookup_write_inside (m : Memory) (a : Nat) (bs : List Byte) {j : Nat} (h : j < bs.length) :
    (m.write a bs).lookup (a + j) = some bs[j] := by
  rw [Memory.lookup_write, if_pos (by omega)]
  simp [h]

/-- Forgetting a range drops its bytes and keeps the others. -/
theorem Memory.lookup_forget (m : Memory) (a n x : Nat) :
    (m.forget a n).lookup x = if a ≤ x ∧ x < a + n then none else m.lookup x := by
  have h := lookup_filter (fun y => decide (y < a) || decide (a + n ≤ y)) m.cells x
  simp only [Memory.forget, Memory.lookup, h]
  by_cases hin : a ≤ x ∧ x < a + n
  · have h1 : ¬ x < a := by omega
    have h2 : ¬ a + n ≤ x := by omega
    simp [hin, h1, h2]
  · have h1 : x < a ∨ a + n ≤ x := by omega
    simp only [hin, if_false]
    rw [if_pos]
    simpa using h1

/-! The canonical form. -/

theorem Memory.wf_iff (m : Memory) : m.wf = true ↔ m.cells.Pairwise (fun c d => c.1 < d.1) := by
  simp [Memory.wf, List.pairwise_map]

theorem Memory.wf_empty : (Memory.mk []).wf = true := rfl

theorem cellsFrom_rising (bs : List Byte) : ∀ a, (cellsFrom a bs).Pairwise (fun c d => c.1 < d.1) := by
  induction bs with
  | nil => intro a; simp [cellsFrom]
  | cons b bs ih =>
    intro a
    simp only [cellsFrom, List.pairwise_cons]
    exact ⟨fun c hc => by have := cellsFrom_range hc; omega, ih (a + 1)⟩

/-- A write keeps the canonical form. -/
theorem Memory.wf_write {m : Memory} (h : m.wf = true) (a : Nat) (bs : List Byte) : (m.write a bs).wf = true := by
  cases bs with
  | nil => exact h
  | cons b bs =>
    rw [Memory.wf_iff] at h ⊢
    simp only [Memory.write]
    rw [List.pairwise_append, List.pairwise_append]
    refine ⟨⟨h.sublist List.filter_sublist, cellsFrom_rising _ _, ?_⟩, h.sublist List.filter_sublist, ?_⟩
    · intro c hc d hd
      have h1 := (List.mem_filter.mp hc).2
      have h2 := cellsFrom_range hd
      simp only [decide_eq_true_eq] at h1
      omega
    · intro c hc d hd
      have h1 := (List.mem_filter.mp hd).2
      simp only [decide_eq_true_eq] at h1
      rcases List.mem_append.mp hc with hc | hc
      · have h2 := (List.mem_filter.mp hc).2
        simp only [decide_eq_true_eq] at h2
        omega
      · have h2 := cellsFrom_range hc
        omega

/-- Forgetting a range keeps the canonical form. -/
theorem Memory.wf_forget {m : Memory} (h : m.wf = true) (a n : Nat) : (m.forget a n).wf = true := by
  rw [Memory.wf_iff] at h ⊢
  exact h.sublist List.filter_sublist

/-- Every cell after a write is an old cell or lies in the block. -/
theorem Memory.mem_write {m : Memory} {a : Nat} {bs : List Byte} {c : Host.Cell} (h : c ∈ (m.write a bs).cells) :
    c ∈ m.cells ∨ (a ≤ c.1 ∧ c.1 < a + bs.length) := by
  cases bs with
  | nil => exact .inl h
  | cons b bs =>
    simp only [Memory.write, List.mem_append] at h
    rcases h with (h | h) | h
    · exact .inl (List.mem_of_mem_filter h)
    · exact .inr (cellsFrom_range h)
    · exact .inl (List.mem_of_mem_filter h)

/-- Every cell after forgetting a range is an old cell. -/
theorem Memory.mem_forget {m : Memory} {a n : Nat} {c : Host.Cell} (h : c ∈ (m.forget a n).cells) : c ∈ m.cells :=
  List.mem_of_mem_filter h

/-! Little-endian integers (20_memory.md R93). -/

@[simp] theorem leBytes_length (n : Nat) : ∀ v, (leBytes n v).length = n := by
  induction n with
  | zero => intro v; rfl
  | succ n ih => intro v; simp [leBytes, ih]

/-- Reading back the little-endian bytes of an integer gives it modulo their width. -/
theorem leNat_leBytes (n : Nat) : ∀ v, leNat (leBytes n v) = v % 256 ^ n := by
  induction n with
  | zero => intro v; simp [leBytes, leNat, Nat.mod_one]
  | succ n ih =>
    intro v
    have h : 256 ^ (n + 1) = 256 * 256 ^ n := by rw [Nat.pow_succ, Nat.mul_comm]
    rw [leBytes, leNat, ih, h, Nat.mod_mul]
    simp

theorem leNat_lt (bs : List Byte) : leNat bs < 256 ^ bs.length := by
  induction bs with
  | nil => simp [leNat]
  | cons b bs ih =>
    simp only [leNat, List.length_cons, Nat.pow_succ]
    have := b.isLt
    omega

end Sys2Proof.Machine
end

