-- ==== Sys2Proof/Laws/Outputs.lean ====
section
/-! SUPPORT. The lengths of the sequences the commands build, the small lemmas of the bit and cell conversions, and
what the shared list operations return. -/

namespace Sys2Proof.Machine

/-! Lengths. -/

@[simp] theorem State.srcBytes_length (s : State) (n : Nat) : (s.srcBytes n).length = n := by simp [State.srcBytes]
@[simp] theorem State.srcBits_length (s : State) (n : Nat) : (s.srcBits n).length = n := by
  simp [State.srcBits, cellsToBits]
@[simp] theorem State.srcF64s_length (s : State) (n : Nat) : (s.srcF64s n).length = n := by simp [State.srcF64s]
@[simp] theorem State.table_length (s : State) (r : Region) (n : Nat) : (s.table r n).length = n := by
  simp [State.table]
@[simp] theorem State.perm_length (s : State) : s.perm.length = s.frameN := by simp [State.perm]
@[simp] theorem cellsToBits_length (cs : List Byte) : (cellsToBits cs).length = cs.length := by simp [cellsToBits]
@[simp] theorem bitsToCells_length (bs : List Bool) : (bitsToCells bs).length = bs.length := by simp [bitsToCells]
@[simp] theorem byteBits_length (y : Byte) : (byteBits y).length = 8 := rfl
@[simp] theorem beBytes_length (v : BitVec 16) : (beBytes v).length = 2 := rfl
@[simp] theorem releasedF64s_length (s : State) (xs : List F64) : (releasedF64s s xs).length = xs.length := by
  simp [releasedF64s]

@[simp] theorem unpackBytes_length (ys : List Byte) : (unpackBytes ys).length = 8 * ys.length := by
  induction ys with
  | nil => rfl
  | cons y ys ih =>
    simp only [unpackBytes, List.flatMap_cons, List.length_append, byteBits_length, List.length_cons] at ih ⊢
    omega

theorem packBits_length : ∀ bs : List Bool, (packBits bs).length = bs.length / 8
  | b0 :: b1 :: b2 :: b3 :: b4 :: b5 :: b6 :: b7 :: rest => by
    have ih := packBits_length rest
    simp only [packBits, List.length_cons, ih]
    omega
  | [] | [_] | [_, _] | [_, _, _] | [_, _, _, _] | [_, _, _, _, _] | [_, _, _, _, _, _] | [_, _, _, _, _, _, _] => by
    simp [packBits]

@[simp] theorem leBytes_eight_length (v : Nat) : (leBytes 8 v).length = 8 := rfl

theorem f64Bytes_length (xs : List F64) : (f64Bytes xs).length = 8 * xs.length := by
  induction xs with
  | nil => rfl
  | cons x xs ih =>
    simp only [f64Bytes, List.flatMap_cons, List.length_append, leBytes_eight_length, List.length_cons] at ih ⊢
    omega

@[simp] theorem rscParities_length (k a b : Nat) (xs : List Bool) : ∀ st, (rscParities k a b st xs).length = xs.length := by
  induction xs with
  | nil => intro st; rfl
  | cons x xs ih => intro st; simp [rscParities, ih]

@[simp] theorem interleave_length {α : Type} (d : α) (p : List Nat) (x : List α) : (interleave d p x).length = p.length := by
  simp [interleave]

@[simp] theorem scatter_length {α : Type} (ps : List Nat) : ∀ (vs y : List α), (scatter ps vs y).length = y.length := by
  induction ps with
  | nil => intro vs y; simp [scatter]
  | cons p ps ih =>
    intro vs y
    cases vs with
    | nil => simp [scatter]
    | cons v vs => simp [scatter, ih]

@[simp] theorem askBurst_length (c : List F64) (b : Bool) : (askBurst c b).length = c.length := by simp [askBurst]

theorem askModulate_length (c : List F64) (bits : List Bool) : (askModulate c bits).length = bits.length * c.length := by
  induction bits with
  | nil => simp [askModulate]
  | cons b bits ih =>
    simp only [askModulate, List.flatMap_cons, List.length_append, askBurst_length, List.length_cons] at ih ⊢
    rw [ih, Nat.add_mul]
    omega

theorem symbolsRe_length : ∀ bs : List Bool, (symbolsRe bs).length = bs.length / 2
  | _ :: _ :: rest => by
    have ih := symbolsRe_length rest
    simp only [symbolsRe, List.length_cons, ih]
    omega
  | [] | [_] => by simp [symbolsRe]

theorem symbolsIm_length : ∀ bs : List Bool, (symbolsIm bs).length = bs.length / 2
  | _ :: _ :: rest => by
    have ih := symbolsIm_length rest
    simp only [symbolsIm, List.length_cons, ih]
    omega
  | [] | [_] => by simp [symbolsIm]

theorem upsample_length (sps : Nat) (h : 0 < sps) (x : List F64) : (upsample sps x).length = x.length * sps := by
  induction x with
  | nil => simp [upsample]
  | cons v x ih =>
    simp only [upsample, List.flatMap_cons, List.length_append, List.length_cons, List.length_replicate] at ih ⊢
    rw [ih, Nat.add_mul]
    omega

@[simp] theorem conv_length (taps x : List F64) : (conv taps x).length = x.length + taps.length - 1 := by simp [conv]

/-! Bits and cells (00_scope.md R13). -/

@[simp] theorem cellBit_bitCell (b : Bool) : cellBit (bitCell b) = b := by cases b <;> rfl

theorem bitCell_cellBit {c : Byte} (h : c = 0 ∨ c = 1) : bitCell (cellBit c) = c := by rcases h with rfl | rfl <;> rfl

/-- Cells hold the bits they were written from. -/
@[simp] theorem cellsToBits_bitsToCells (bs : List Bool) : cellsToBits (bitsToCells bs) = bs := by
  induction bs with
  | nil => rfl
  | cons b bs ih => simpa [cellsToBits, bitsToCells] using ih

/-- A cell is binary exactly when its value is 0x00 or 0x01. -/
theorem nonBinary_eq_false_iff (c : Byte) : nonBinary c = false ↔ c = 0 ∨ c = 1 := by
  revert c
  decide

/-- The non-binary check passes exactly when every cell is binary. -/
theorem firstNonBinary_eq_none_iff (cs : List Byte) : firstNonBinary cs = none ↔ ∀ c ∈ cs, c = 0 ∨ c = 1 := by
  simp only [firstNonBinary, List.findIdx?_eq_none_iff, nonBinary_eq_false_iff]

theorem nonBinaryError_eq_none_iff (k : ErrKind) (cs : List Byte) :
    nonBinaryError k cs = none ↔ ∀ c ∈ cs, c = 0 ∨ c = 1 := by
  simp [nonBinaryError, firstNonBinary_eq_none_iff]

theorem State.mem_srcBytes (s : State) (n : Nat) (c : Byte) : c ∈ s.srcBytes n ↔ ∃ i, i < n ∧ s.src8 i = c := by
  simp [State.srcBytes]

/-! The scans. -/

/-- What the scan for a non-binary cell finds: the least index of one (60_exceptions.md R330). -/
theorem firstNonBinary_eq_some_iff (cs : List Byte) (k : Nat) :
    firstNonBinary cs = some k ↔
      ∃ h : k < cs.length, ¬ (cs[k] = 0 ∨ cs[k] = 1) ∧ ∀ j (hj : j < k), cs[j] = 0 ∨ cs[j] = 1 := by
  simp only [firstNonBinary, List.findIdx?_eq_some_iff_getElem, ← nonBinary_eq_false_iff, Bool.not_eq_false,
    Bool.not_eq_true]

/-- The scan of the interleaver table passes exactly when every entry is below `n`, none repeats and none was seen. -/
theorem firstBadEntry_eq_none_iff (n : Nat) (ps : List Nat) : ∀ (seen : List Nat) (k : Nat),
    firstBadEntry n seen k ps = none ↔ (∀ p ∈ ps, p < n ∧ p ∉ seen) ∧ ps.Nodup := by
  induction ps with
  | nil => intro seen k; simp [firstBadEntry]
  | cons p ps ih =>
    intro seen k
    by_cases h : n ≤ p ∨ p ∈ seen
    · simp only [firstBadEntry, h, if_true, reduceCtorEq, false_iff, List.mem_cons, forall_eq_or_imp]
      rintro ⟨⟨⟨h1, h2⟩, -⟩, -⟩
      rcases h with h | h
      · omega
      · exact h2 h
    · push Not at h
      simp only [firstBadEntry, not_le.mpr h.1, h.2, or_self, if_false, ih, List.mem_cons, forall_eq_or_imp,
        List.nodup_cons, not_or]
      constructor
      · rintro ⟨h1, h2⟩
        exact ⟨⟨⟨h.1, not_false⟩, fun q hq => ⟨(h1 q hq).1, (h1 q hq).2.2⟩⟩, fun hp => (h1 p hp).2.1 rfl, h2⟩
      · rintro ⟨⟨-, h1⟩, h2, h3⟩
        exact ⟨fun q hq => ⟨(h1 q hq).1, fun he => h2 (he ▸ hq), (h1 q hq).2⟩, h3⟩

/-- When the scan stops at index `m` (counted from `k`), the entry there is out of range or was seen, and the entries
before it pass. -/
theorem firstBadEntry_eq_some_iff (n : Nat) (ps : List Nat) : ∀ (seen : List Nat) (k m : Nat),
    firstBadEntry n seen k ps = some m ↔
      ∃ i, m = k + i ∧ ∃ h : i < ps.length, firstBadEntry n seen k (ps.take i) = none ∧
        (n ≤ ps[i] ∨ ps[i] ∈ seen ∨ ps[i] ∈ ps.take i) := by
  induction ps with
  | nil => intro seen k m; simp [firstBadEntry]
  | cons p ps ih =>
    intro seen k m
    by_cases hp : n ≤ p ∨ p ∈ seen
    · simp only [firstBadEntry, hp, if_true, Option.some.injEq]
      constructor
      · rintro rfl
        exact ⟨0, rfl, by simp, by simp [firstBadEntry], by simpa using hp⟩
      · rintro ⟨i, rfl, h, hn, -⟩
        cases i with
        | zero => rfl
        | succ i => simp [firstBadEntry, hp] at hn
    · simp only [firstBadEntry, hp, if_false, ih]
      push Not at hp
      constructor
      · rintro ⟨i, rfl, h, hn, hb⟩
        refine ⟨i + 1, by omega, by simpa using h, by simpa [firstBadEntry, not_le.mpr hp.1, hp.2] using hn, ?_⟩
        simp only [List.mem_cons, List.getElem_cons_succ, List.take_succ_cons] at hb ⊢
        tauto
      · rintro ⟨i, rfl, h, hn, hb⟩
        cases i with
        | zero =>
          rcases (by simpa using hb : n ≤ p ∨ p ∈ seen) with h1 | h1
          · omega
          · exact absurd h1 hp.2
        | succ i =>
          refine ⟨i, by omega, by simpa using h, by simpa [firstBadEntry, not_le.mpr hp.1, hp.2] using hn, ?_⟩
          simp only [List.mem_cons, List.getElem_cons_succ, List.take_succ_cons] at hb ⊢
          tauto

/-- Saturation does nothing to a count of 32 bits. -/
theorem sat32_of_lt {n : Nat} (h : n < 2 ^ 32) : sat32 n = BitVec.ofNat 32 n := by
  simp only [sat32]
  rw [if_neg (by omega)]

end Sys2Proof.Machine
end

