-- ==== Sys2Proof/Laws/State.lean ====
section
/-! SUPPORT. One lemma per field per update, true by rfl, so that no later proof unfolds a record update. -/

namespace Sys2Proof.Machine

/-! `Csr.completed`. -/

@[simp] theorem Csr.completed_irqEn (c : Csr) : c.completed.irqEn = c.irqEn := rfl
@[simp] theorem Csr.completed_busy (c : Csr) : c.completed.busy = false := rfl
@[simp] theorem Csr.completed_doneFlag (c : Csr) : c.completed.doneFlag = true := rfl
@[simp] theorem Csr.completed_err (c : Csr) : c.completed.err = c.err := rfl
@[simp] theorem Csr.completed_cmdOvr (c : Csr) : c.completed.cmdOvr = c.cmdOvr := rfl
@[simp] theorem Csr.completed_accErr (c : Csr) : c.completed.accErr = c.accErr := rfl
@[simp] theorem Csr.completed_ilvValid (c : Csr) : c.completed.ilvValid = c.ilvValid := rfl
@[simp] theorem Csr.completed_errcode (c : Csr) : c.completed.errcode = c.errcode := rfl
@[simp] theorem Csr.completed_errInfo (c : Csr) : c.completed.errInfo = c.errInfo := rfl
@[simp] theorem Csr.completed_accAddr (c : Csr) : c.completed.accAddr = c.accAddr := rfl
@[simp] theorem Csr.completed_accCause (c : Csr) : c.completed.accCause = c.accCause := rfl
@[simp] theorem Csr.completed_accWr (c : Csr) : c.completed.accWr = c.accWr := rfl
@[simp] theorem Csr.completed_srcLen (c : Csr) : c.completed.srcLen = c.srcLen := rfl
@[simp] theorem Csr.completed_dstLen (c : Csr) : c.completed.dstLen = c.dstLen := rfl
@[simp] theorem Csr.completed_frameLen (c : Csr) : c.completed.frameLen = c.frameLen := rfl
@[simp] theorem Csr.completed_constraintLen (c : Csr) : c.completed.constraintLen = c.constraintLen := rfl
@[simp] theorem Csr.completed_tapA (c : Csr) : c.completed.tapA = c.tapA := rfl
@[simp] theorem Csr.completed_tapB (c : Csr) : c.completed.tapB = c.tapB := rfl
@[simp] theorem Csr.completed_rsc1State (c : Csr) : c.completed.rsc1State = c.rsc1State := rfl
@[simp] theorem Csr.completed_rsc2State (c : Csr) : c.completed.rsc2State = c.rsc2State := rfl
@[simp] theorem Csr.completed_frHeader (c : Csr) : c.completed.frHeader = c.frHeader := rfl
@[simp] theorem Csr.completed_crcPoly (c : Csr) : c.completed.crcPoly = c.crcPoly := rfl
@[simp] theorem Csr.completed_crcInit (c : Csr) : c.completed.crcInit = c.crcInit := rfl
@[simp] theorem Csr.completed_crcXorout (c : Csr) : c.completed.crcXorout = c.crcXorout := rfl
@[simp] theorem Csr.completed_refin (c : Csr) : c.completed.refin = c.refin := rfl
@[simp] theorem Csr.completed_refout (c : Csr) : c.completed.refout = c.refout := rfl
@[simp] theorem Csr.completed_crcResult (c : Csr) : c.completed.crcResult = c.crcResult := rfl
@[simp] theorem Csr.completed_askSpb (c : Csr) : c.completed.askSpb = c.askSpb := rfl
@[simp] theorem Csr.completed_qpskSps (c : Csr) : c.completed.qpskSps = c.qpskSps := rfl
@[simp] theorem Csr.completed_qpskFrameLen (c : Csr) : c.completed.qpskFrameLen = c.qpskFrameLen := rfl
@[simp] theorem Csr.completed_qpskNtaps (c : Csr) : c.completed.qpskNtaps = c.qpskNtaps := rfl
@[simp] theorem Csr.completed_smpOffset (c : Csr) : c.completed.smpOffset = c.smpOffset := rfl
@[simp] theorem Csr.completed_smpMode (c : Csr) : c.completed.smpMode = c.smpMode := rfl
@[simp] theorem Csr.completed_noiseEn (c : Csr) : c.completed.noiseEn = c.noiseEn := rfl
@[simp] theorem Csr.completed_lastCmd (c : Csr) : c.completed.lastCmd = c.lastCmd := rfl

/-! `Csr.writeStatus`. -/

@[simp] theorem Csr.writeStatus_irqEn (v : Word) (c : Csr) : (c.writeStatus v).irqEn = c.irqEn := rfl
@[simp] theorem Csr.writeStatus_busy (v : Word) (c : Csr) : (c.writeStatus v).busy = c.busy := rfl
@[simp] theorem Csr.writeStatus_doneFlag (v : Word) (c : Csr) : (c.writeStatus v).doneFlag = (c.doneFlag && !v.getLsbD 1) := rfl
@[simp] theorem Csr.writeStatus_err (v : Word) (c : Csr) : (c.writeStatus v).err = (c.err && !v.getLsbD 2) := rfl
@[simp] theorem Csr.writeStatus_cmdOvr (v : Word) (c : Csr) : (c.writeStatus v).cmdOvr = (c.cmdOvr && !v.getLsbD 3) := rfl
@[simp] theorem Csr.writeStatus_accErr (v : Word) (c : Csr) : (c.writeStatus v).accErr = (c.accErr && !v.getLsbD 4) := rfl
@[simp] theorem Csr.writeStatus_ilvValid (v : Word) (c : Csr) : (c.writeStatus v).ilvValid = c.ilvValid := rfl
@[simp] theorem Csr.writeStatus_errcode (v : Word) (c : Csr) : (c.writeStatus v).errcode = c.errcode := rfl
@[simp] theorem Csr.writeStatus_errInfo (v : Word) (c : Csr) : (c.writeStatus v).errInfo = c.errInfo := rfl
@[simp] theorem Csr.writeStatus_accAddr (v : Word) (c : Csr) : (c.writeStatus v).accAddr = c.accAddr := rfl
@[simp] theorem Csr.writeStatus_accCause (v : Word) (c : Csr) : (c.writeStatus v).accCause = c.accCause := rfl
@[simp] theorem Csr.writeStatus_accWr (v : Word) (c : Csr) : (c.writeStatus v).accWr = c.accWr := rfl
@[simp] theorem Csr.writeStatus_srcLen (v : Word) (c : Csr) : (c.writeStatus v).srcLen = c.srcLen := rfl
@[simp] theorem Csr.writeStatus_dstLen (v : Word) (c : Csr) : (c.writeStatus v).dstLen = c.dstLen := rfl
@[simp] theorem Csr.writeStatus_frameLen (v : Word) (c : Csr) : (c.writeStatus v).frameLen = c.frameLen := rfl
@[simp] theorem Csr.writeStatus_constraintLen (v : Word) (c : Csr) : (c.writeStatus v).constraintLen = c.constraintLen := rfl
@[simp] theorem Csr.writeStatus_tapA (v : Word) (c : Csr) : (c.writeStatus v).tapA = c.tapA := rfl
@[simp] theorem Csr.writeStatus_tapB (v : Word) (c : Csr) : (c.writeStatus v).tapB = c.tapB := rfl
@[simp] theorem Csr.writeStatus_rsc1State (v : Word) (c : Csr) : (c.writeStatus v).rsc1State = c.rsc1State := rfl
@[simp] theorem Csr.writeStatus_rsc2State (v : Word) (c : Csr) : (c.writeStatus v).rsc2State = c.rsc2State := rfl
@[simp] theorem Csr.writeStatus_frHeader (v : Word) (c : Csr) : (c.writeStatus v).frHeader = c.frHeader := rfl
@[simp] theorem Csr.writeStatus_crcPoly (v : Word) (c : Csr) : (c.writeStatus v).crcPoly = c.crcPoly := rfl
@[simp] theorem Csr.writeStatus_crcInit (v : Word) (c : Csr) : (c.writeStatus v).crcInit = c.crcInit := rfl
@[simp] theorem Csr.writeStatus_crcXorout (v : Word) (c : Csr) : (c.writeStatus v).crcXorout = c.crcXorout := rfl
@[simp] theorem Csr.writeStatus_refin (v : Word) (c : Csr) : (c.writeStatus v).refin = c.refin := rfl
@[simp] theorem Csr.writeStatus_refout (v : Word) (c : Csr) : (c.writeStatus v).refout = c.refout := rfl
@[simp] theorem Csr.writeStatus_crcResult (v : Word) (c : Csr) : (c.writeStatus v).crcResult = c.crcResult := rfl
@[simp] theorem Csr.writeStatus_askSpb (v : Word) (c : Csr) : (c.writeStatus v).askSpb = c.askSpb := rfl
@[simp] theorem Csr.writeStatus_qpskSps (v : Word) (c : Csr) : (c.writeStatus v).qpskSps = c.qpskSps := rfl
@[simp] theorem Csr.writeStatus_qpskFrameLen (v : Word) (c : Csr) : (c.writeStatus v).qpskFrameLen = c.qpskFrameLen := rfl
@[simp] theorem Csr.writeStatus_qpskNtaps (v : Word) (c : Csr) : (c.writeStatus v).qpskNtaps = c.qpskNtaps := rfl
@[simp] theorem Csr.writeStatus_smpOffset (v : Word) (c : Csr) : (c.writeStatus v).smpOffset = c.smpOffset := rfl
@[simp] theorem Csr.writeStatus_smpMode (v : Word) (c : Csr) : (c.writeStatus v).smpMode = c.smpMode := rfl
@[simp] theorem Csr.writeStatus_noiseEn (v : Word) (c : Csr) : (c.writeStatus v).noiseEn = c.noiseEn := rfl
@[simp] theorem Csr.writeStatus_lastCmd (v : Word) (c : Csr) : (c.writeStatus v).lastCmd = c.lastCmd := rfl

/-! `completeOk`. -/

@[simp] theorem completeOk_csr (e : Effect) (s : State) : (completeOk e s).csr = e.csr.completed := rfl
@[simp] theorem completeOk_ram (e : Effect) (s : State) : (completeOk e s).ram = s.ram.write Region.dst.base e.dst := rfl
@[simp] theorem completeOk_ramEpoch (e : Effect) (s : State) : (completeOk e s).ramEpoch = s.ramEpoch := rfl
@[simp] theorem completeOk_dstEpoch (e : Effect) (s : State) : (completeOk e s).dstEpoch = s.dstEpoch := rfl
@[simp] theorem completeOk_completions (e : Effect) (s : State) : (completeOk e s).completions = s.completions + 1 := rfl
@[simp] theorem completeOk_events (e : Effect) (s : State) : (completeOk e s).events = s.events := rfl
@[simp] theorem completeOk_reads (e : Effect) (s : State) : (completeOk e s).reads = s.reads := rfl

/-! `completeErr`. -/

@[simp] theorem completeErr_csr (e : CmdError) (s : State) : (completeErr e s).csr = ({ s.csr with errcode := e.kind.code, errInfo := e.info, err := true, dstLen := 0 } : Csr).completed := rfl
@[simp] theorem completeErr_ram (e : CmdError) (s : State) : (completeErr e s).ram = s.ram := rfl
@[simp] theorem completeErr_ramEpoch (e : CmdError) (s : State) : (completeErr e s).ramEpoch = s.ramEpoch := rfl
@[simp] theorem completeErr_dstEpoch (e : CmdError) (s : State) : (completeErr e s).dstEpoch = s.dstEpoch := rfl
@[simp] theorem completeErr_completions (e : CmdError) (s : State) : (completeErr e s).completions = s.completions + 1 := rfl
@[simp] theorem completeErr_events (e : CmdError) (s : State) : (completeErr e s).events = s.events := rfl
@[simp] theorem completeErr_reads (e : CmdError) (s : State) : (completeErr e s).reads = s.reads := rfl

/-! `acceptCmd`. -/

@[simp] theorem acceptCmd_csr (w : Word) (s : State) : (acceptCmd w s).csr = { s.csr with lastCmd := w, doneFlag := false, err := false, errcode := 0, errInfo := 0, busy := true } := rfl
@[simp] theorem acceptCmd_ram (w : Word) (s : State) : (acceptCmd w s).ram = s.ram := rfl
@[simp] theorem acceptCmd_ramEpoch (w : Word) (s : State) : (acceptCmd w s).ramEpoch = s.ramEpoch := rfl
@[simp] theorem acceptCmd_dstEpoch (w : Word) (s : State) : (acceptCmd w s).dstEpoch = s.dstEpoch := rfl
@[simp] theorem acceptCmd_completions (w : Word) (s : State) : (acceptCmd w s).completions = s.completions := rfl
@[simp] theorem acceptCmd_events (w : Word) (s : State) : (acceptCmd w s).events = s.events := rfl
@[simp] theorem acceptCmd_reads (w : Word) (s : State) : (acceptCmd w s).reads = s.reads := rfl

/-! `dropCmd`. -/

@[simp] theorem dropCmd_csr (s : State) : (dropCmd s).csr = { s.csr with cmdOvr := true } := rfl
@[simp] theorem dropCmd_ram (s : State) : (dropCmd s).ram = s.ram := rfl
@[simp] theorem dropCmd_ramEpoch (s : State) : (dropCmd s).ramEpoch = s.ramEpoch := rfl
@[simp] theorem dropCmd_dstEpoch (s : State) : (dropCmd s).dstEpoch = s.dstEpoch := rfl
@[simp] theorem dropCmd_completions (s : State) : (dropCmd s).completions = s.completions := rfl
@[simp] theorem dropCmd_events (s : State) : (dropCmd s).events = s.events := rfl
@[simp] theorem dropCmd_reads (s : State) : (dropCmd s).reads = s.reads := rfl

/-! `noteIllegal`. -/

@[simp] theorem noteIllegal_csr (cause : AccCause) (wr : Bool) (a : Addr) (s : State) : (noteIllegal cause wr a s).csr = s.csr.noteAccess cause wr a := rfl
@[simp] theorem noteIllegal_ram (cause : AccCause) (wr : Bool) (a : Addr) (s : State) : (noteIllegal cause wr a s).ram = s.ram := rfl
@[simp] theorem noteIllegal_ramEpoch (cause : AccCause) (wr : Bool) (a : Addr) (s : State) : (noteIllegal cause wr a s).ramEpoch = s.ramEpoch := rfl
@[simp] theorem noteIllegal_dstEpoch (cause : AccCause) (wr : Bool) (a : Addr) (s : State) : (noteIllegal cause wr a s).dstEpoch = s.dstEpoch := rfl
@[simp] theorem noteIllegal_completions (cause : AccCause) (wr : Bool) (a : Addr) (s : State) : (noteIllegal cause wr a s).completions = s.completions := rfl
@[simp] theorem noteIllegal_events (cause : AccCause) (wr : Bool) (a : Addr) (s : State) : (noteIllegal cause wr a s).events = s.events := rfl
@[simp] theorem noteIllegal_reads (cause : AccCause) (wr : Bool) (a : Addr) (s : State) : (noteIllegal cause wr a s).reads = s.reads := rfl

/-! `loseDst`. -/

@[simp] theorem loseDst_csr (s : State) : (loseDst s).csr = s.csr := rfl
@[simp] theorem loseDst_ram (s : State) : (loseDst s).ram = s.ram.forget Region.dst.base Region.dst.size := rfl
@[simp] theorem loseDst_ramEpoch (s : State) : (loseDst s).ramEpoch = s.ramEpoch := rfl
@[simp] theorem loseDst_dstEpoch (s : State) : (loseDst s).dstEpoch = s.dstEpoch + 1 := rfl
@[simp] theorem loseDst_completions (s : State) : (loseDst s).completions = s.completions := rfl
@[simp] theorem loseDst_events (s : State) : (loseDst s).events = s.events := rfl
@[simp] theorem loseDst_reads (s : State) : (loseDst s).reads = s.reads := rfl

/-! `powerOnReset`. -/

@[simp] theorem powerOnReset_csr (s : State) : (powerOnReset s).csr = Csr.reset := rfl
@[simp] theorem powerOnReset_ram (s : State) : (powerOnReset s).ram = ⟨[]⟩ := rfl
@[simp] theorem powerOnReset_ramEpoch (s : State) : (powerOnReset s).ramEpoch = s.ramEpoch + 1 := rfl
@[simp] theorem powerOnReset_dstEpoch (s : State) : (powerOnReset s).dstEpoch = s.dstEpoch + 1 := rfl
@[simp] theorem powerOnReset_completions (s : State) : (powerOnReset s).completions = s.completions := rfl
@[simp] theorem powerOnReset_events (s : State) : (powerOnReset s).events = s.events := rfl
@[simp] theorem powerOnReset_reads (s : State) : (powerOnReset s).reads = s.reads := rfl

/-! `writeRam`. -/

@[simp] theorem writeRam_csr (a : Addr) (v : Word) (s : State) : (writeRam a v s).csr = (if Region.ilv.contains a.toNat then { s.csr with ilvValid := false } else s.csr) := rfl
@[simp] theorem writeRam_ram (a : Addr) (v : Word) (s : State) : (writeRam a v s).ram = s.ram.write a.toNat (leBytes 4 v.toNat) := rfl
@[simp] theorem writeRam_ramEpoch (a : Addr) (v : Word) (s : State) : (writeRam a v s).ramEpoch = s.ramEpoch := rfl
@[simp] theorem writeRam_dstEpoch (a : Addr) (v : Word) (s : State) : (writeRam a v s).dstEpoch = s.dstEpoch := rfl
@[simp] theorem writeRam_completions (a : Addr) (v : Word) (s : State) : (writeRam a v s).completions = s.completions := rfl
@[simp] theorem writeRam_events (a : Addr) (v : Word) (s : State) : (writeRam a v s).events = s.events := rfl
@[simp] theorem writeRam_reads (a : Addr) (v : Word) (s : State) : (writeRam a v s).reads = s.reads := rfl

/-! `softReset`: it depends on BUSY. -/

@[simp] theorem softReset_csr (s : State) : (softReset s).csr = Csr.reset := rfl
@[simp] theorem softReset_completions (s : State) : (softReset s).completions = s.completions := by
  simp only [softReset]; split <;> rfl
@[simp] theorem softReset_events (s : State) : (softReset s).events = s.events := by
  simp only [softReset]; split <;> rfl
@[simp] theorem softReset_reads (s : State) : (softReset s).reads = s.reads := by
  simp only [softReset]; split <;> rfl
@[simp] theorem softReset_ramEpoch (s : State) : (softReset s).ramEpoch = s.ramEpoch := by
  simp only [softReset]; split <;> rfl
theorem softReset_ram (s : State) :
    (softReset s).ram = if s.csr.busy then s.ram.forget Region.dst.base Region.dst.size else s.ram := by
  simp only [softReset]; split <;> rfl
theorem softReset_dstEpoch (s : State) :
    (softReset s).dstEpoch = if s.csr.busy then s.dstEpoch + 1 else s.dstEpoch := by
  simp only [softReset]; split <;> rfl

end Sys2Proof.Machine
end

