-- ==== Sys2Proof/Laws/Ops.lean ====
section
/-! SUPPORT. One lemma per shared operation that says everything it can do: reading bytes after a completion or a bus
write, what a command answers, what an access does, what a step does. -/

namespace Sys2Proof.Machine

/-! Reading bytes. -/

/-- A byte reads the same in two states that hold the same memory and the same epochs. -/
theorem readByte_congr {s t : State} {a : Nat} (hl : t.ram.lookup a = s.ram.lookup a) (hr : t.ramEpoch = s.ramEpoch)
    (hd : t.dstEpoch = s.dstEpoch) : t.readByte a = s.readByte a := by
  simp [State.readByte, State.epochOf, hl, hr, hd]

/-- A completion with a result stores its output bytes from DST byte 0 upwards. -/
theorem completeOk_readByte_inside (e : Effect) (s : State) {j : Nat} (h : j < e.dst.length) :
    (completeOk e s).readByte (Region.dst.base + j) = e.dst[j] := by
  simp [State.readByte, Memory.lookup_write_inside, h]

/-- A completion with a result leaves every other byte alone. -/
theorem completeOk_readByte_outside (e : Effect) (s : State) {a : Nat}
    (h : a < Region.dst.base ∨ Region.dst.base + e.dst.length ≤ a) : (completeOk e s).readByte a = s.readByte a :=
  readByte_congr (by simpa using Memory.lookup_write_outside s.ram _ e.dst h) rfl rfl

/-- A completion with an error leaves every byte alone. -/
@[simp] theorem completeErr_readByte (e : CmdError) (s : State) (a : Nat) :
    (completeErr e s).readByte a = s.readByte a := rfl

@[simp] theorem acceptCmd_readByte (w : Word) (s : State) (a : Nat) : (acceptCmd w s).readByte a = s.readByte a := rfl

@[simp] theorem withEvents_readByte (es : List Event) (s : State) (a : Nat) :
    ({ s with events := es } : State).readByte a = s.readByte a := rfl

/-- A legal RAM write changes the four bytes at its address and no other. -/
theorem writeRam_readByte_outside (a : Addr) (v : Word) (s : State) {x : Nat} (h : x < a.toNat ∨ a.toNat + 4 ≤ x) :
    (writeRam a v s).readByte x = s.readByte x :=
  readByte_congr (by simpa using Memory.lookup_write_outside s.ram _ (leBytes 4 v.toNat) (by simpa using h)) rfl rfl

theorem writeRam_readByte_inside (a : Addr) (v : Word) (s : State) {j : Nat} (h : j < 4) :
    (writeRam a v s).readByte (a.toNat + j) = (leBytes 4 v.toNat)[j]'(by simpa using h) := by
  have hl : j < (leBytes 4 v.toNat).length := by simpa using h
  simp [State.readByte, Memory.lookup_write_inside _ _ _ hl]

/-- A soft reset leaves every byte outside DST alone, and every byte when it aborts nothing (70_reset_and_hazards.md R372). -/
theorem softReset_readByte (s : State) {a : Nat} (h : s.csr.busy = false ∨ Region.dst.contains a = false) :
    (softReset s).readByte a = s.readByte a := by
  cases hb : s.csr.busy with
  | false => simp [softReset, hb, State.readByte, State.epochOf]
  | true =>
    have hc : Region.dst.contains a = false := by simpa [hb] using h
    have hl : (s.ram.forget Region.dst.base Region.dst.size).lookup a = s.ram.lookup a := by
      rw [Memory.lookup_forget]
      have : ¬ (Region.dst.base ≤ a ∧ a < Region.dst.base + Region.dst.size) := by
        simpa [Region.contains] using hc
      rw [if_neg (by omega)]
    simp [softReset, hb, loseDst, State.readByte, State.epochOf, hc, hl]

/-- Power-on reset leaves no byte of RAM with what was written to it (20_memory.md R104). -/
@[simp] theorem powerOnReset_lookup (s : State) (a : Nat) : (powerOnReset s).ram.lookup a = none := rfl

/-! What a command answers. -/

/-- A completion is a completion with the error of the first failing check, or one with the effect. -/
theorem complete_cases (f : Option CmdError) (g : State → Effect) (s : State) :
    (∃ e, f = some e ∧ complete f g s = completeErr e s) ∨ (f = none ∧ complete f g s = completeOk (g s) s) := by
  cases f with
  | none => exact .inr ⟨rfl, rfl⟩
  | some e => exact .inl ⟨e, rfl, rfl⟩

/-- The checks of a command, in the order of 60_exceptions.md R331: the error of the first that fails. -/
def failingCheck (i : Instr) (s : State) : Option CmdError :=
  match i with
  | .nop => none
  | .ilvchk => ilvchkCheck s
  | .pack => packCheck s
  | .unpack => unpackCheck s
  | .rscenc => rscencCheck s
  | .ilv | .dilv => interleaverCheck s
  | .tenc => tencCheck s
  | .tdec iter => tdecCheck iter s
  | .crc => crcCheck s
  | .fbuild => fbuildCheck s
  | .fparse => fparseCheck s
  | .amod => amodCheck s
  | .adem => ademCheck s
  | .qmod => qmodCheck s
  | .qdem => qdemCheck s

/-- The effect of a command whose checks all pass. -/
def commandEffect (i : Instr) (s : State) : Effect :=
  match i with
  | .nop => nopEffect s
  | .ilvchk => ilvchkEffect s
  | .pack => packEffect s
  | .unpack => unpackEffect s
  | .rscenc => rscencEffect s
  | .ilv => ilvEffect s
  | .dilv => dilvEffect s
  | .tenc => tencEffect s
  | .tdec iter => tdecEffect iter s
  | .crc => crcEffect s
  | .fbuild => fbuildEffect s
  | .fparse => fparseEffect s
  | .amod => amodEffect s
  | .adem => ademEffect s
  | .qmod => qmodEffect s
  | .qdem => qdemEffect s

/-- A command whose checks pass has its effect. -/
theorem exec_ok {i : Instr} {s : State} (h : failingCheck i s = none) :
    exec i s = .next (completeOk (commandEffect i s) s) := by
  cases i <;> simp only [failingCheck] at h <;>
    simp only [exec, commandEffect, execNop, execIlvchk, execPack, execUnpack, execRscenc, execIlv, execDilv, execTenc,
      execTdec, execCrc, execFbuild, execFparse, execAmod, execAdem, execQmod, execQdem, complete, h]

/-- A command with a failing check completes with that error; ILVCHK clears ILV_VALID with it. -/
theorem exec_err {i : Instr} {s : State} {e : CmdError} (h : failingCheck i s = some e) :
    exec i s = .next (completeErr e
      (if i = .ilvchk then { s with csr := { s.csr with ilvValid := false } } else s)) := by
  cases i <;> simp only [failingCheck, reduceCtorEq] at h <;>
    simp [exec, execIlvchk, execPack, execUnpack, execRscenc, execIlv, execDilv, execTenc, execTdec, execCrc, execFbuild,
      execFparse, execAmod, execAdem, execQmod, execQdem, complete, h]

/-- Every command answers a next state: its effect, or the error of its first failing check (60_exceptions.md R336). -/
theorem exec_cases (i : Instr) (s : State) :
    (failingCheck i s = none ∧ exec i s = .next (completeOk (commandEffect i s) s)) ∨
    ∃ e, failingCheck i s = some e ∧ exec i s = .next (completeErr e
      (if i = .ilvchk then { s with csr := { s.csr with ilvValid := false } } else s)) := by
  cases h : failingCheck i s with
  | none => exact .inl ⟨rfl, exec_ok h⟩
  | some e => exact .inr ⟨e, rfl, exec_err h⟩

/-! What the bus and the step do. -/

/-- A host read notes itself if it is illegal, and records a value; nothing else changes. -/
theorem hostRead_cases (a : Addr) (s : State) :
    (∃ c, accessCause s false a = some c ∧ hostRead a s = { noteIllegal c false a s with reads := 0 :: s.reads }) ∨
    (accessCause s false a = none ∧ hostRead a s = { s with reads := busValue s a :: s.reads }) := by
  cases h : accessCause s false a with
  | none => exact .inr ⟨rfl, by simp [hostRead, h]⟩
  | some c => exact .inl ⟨c, rfl, by simp [hostRead, h]⟩

/-- A host write notes itself, or is a soft reset, a CTRL write, an accepted or dropped command, a register write, or a
RAM write. -/
theorem hostWrite_cases (a : Addr) (v : Word) (s : State) :
    (∃ c, accessCause s true a = some c ∧ hostWrite a v s = noteIllegal c true a s) ∨
    (accessCause s true a = none ∧
      ((regOf a.toNat = some .ctrl ∧ hostWrite a v s = writeCtrl v s) ∨
       (regOf a.toNat = some .cmd ∧ hostWrite a v s = writeCmd v s) ∨
       (∃ r, regOf a.toNat = some r ∧ r ≠ .ctrl ∧ r ≠ .cmd ∧
         hostWrite a v s = { s with csr := s.csr.writeReg r v }) ∨
       (regOf a.toNat = none ∧ hostWrite a v s = writeRam a v s))) := by
  cases h : accessCause s true a with
  | some c => exact .inl ⟨c, rfl, by simp [hostWrite, h]⟩
  | none =>
    refine .inr ⟨rfl, ?_⟩
    cases hr : regOf a.toNat with
    | none => exact .inr (.inr (.inr ⟨rfl, by simp [hostWrite, h, busStore, hr]⟩))
    | some r => cases r <;> simp [hostWrite, h, busStore, hr]

/-- The sequencer's turn: nothing in IDLE; in BUSY the completion of the latched word. -/
theorem sequencerTurn_cases (s : State) :
    (s.csr.busy = false ∧ sequencerTurn s = .next s) ∨
    (s.csr.busy = true ∧ ∃ i, decode s.csr.lastCmd = .ok i ∧ sequencerTurn s = exec i s) ∨
    (s.csr.busy = true ∧ ∃ e, decode s.csr.lastCmd = .error e ∧ sequencerTurn s = .next (completeIllegal s)) := by
  cases hb : s.csr.busy with
  | false => exact .inl ⟨rfl, by simp [sequencerTurn, hb]⟩
  | true =>
    cases hd : decode s.csr.lastCmd with
    | ok i => exact .inr (.inl ⟨rfl, i, rfl, by simp [sequencerTurn, hb, hd]⟩)
    | error e => exact .inr (.inr ⟨rfl, e, rfl, by simp [sequencerTurn, hb, hd]⟩)

/-- A step: the sequencer's turn when no event is left or the next event is its turn, else a host access or the power-on
reset. -/
theorem step_cases (s : State) :
    (s.events = [] ∧ step s = sequencerTurn s) ∨
    (∃ rest, s.events = .sequencer :: rest ∧ step s = sequencerTurn { s with events := rest }) ∨
    (∃ a rest, s.events = .hostRead a :: rest ∧ step s = .next (hostRead a { s with events := rest })) ∨
    (∃ a v rest, s.events = .hostWrite a v :: rest ∧ step s = .next (hostWrite a v { s with events := rest })) ∨
    (∃ rest, s.events = .powerOn :: rest ∧ step s = .next (powerOnReset { s with events := rest })) := by
  cases h : s.events with
  | nil => exact .inl ⟨rfl, by simp [step, h]⟩
  | cons e rest => cases e <;> simp [step, h, handleEvent]

end Sys2Proof.Machine
end

