-- ==== Sys2Proof/Laws/PerInstr.lean ====
section
/-! SUPPORT. Facts about each command as syntax, one lemma per constructor: the fields of its command word. -/

namespace Sys2Proof.Laws.EncodedFields

/-- The fields of the command word of `i` (30_encoding.md R130): RSV is 0, OP and ARG are the command's, and only TDEC has
an ARG other than 0. -/
def Statement (i : Instr) : Prop :=
  cmdRsv (encode i) = 0 ∧ cmdOp (encode i) = i.opcode ∧ cmdArg (encode i) = i.arg ∧
    (i.arg = 0 ∨ i = .tdec i.arg)

theorem nop : Statement .nop := by unfold Statement; decide
theorem ilvchk : Statement .ilvchk := by unfold Statement; decide
theorem pack : Statement .pack := by unfold Statement; decide
theorem unpack : Statement .unpack := by unfold Statement; decide
theorem rscenc : Statement .rscenc := by unfold Statement; decide
theorem ilv : Statement .ilv := by unfold Statement; decide
theorem dilv : Statement .dilv := by unfold Statement; decide
theorem tenc : Statement .tenc := by unfold Statement; decide
theorem tdec (iter : BitVec 8) : Statement (.tdec iter) := by
  unfold Statement
  revert iter
  decide
theorem crc : Statement .crc := by unfold Statement; decide
theorem fbuild : Statement .fbuild := by unfold Statement; decide
theorem fparse : Statement .fparse := by unfold Statement; decide
theorem amod : Statement .amod := by unfold Statement; decide
theorem adem : Statement .adem := by unfold Statement; decide
theorem qmod : Statement .qmod := by unfold Statement; decide
theorem qdem : Statement .qdem := by unfold Statement; decide

end Sys2Proof.Laws.EncodedFields
end

