-- ==== Sys2Proof/Machine/Script.lean ====
section
/-! DEFINITION. The host command-script notation (30_encoding.md R138): each statement as the bus events it expands to.
A program is the concatenation of its statements' events, loaded into `State.events` (log entry 2). -/

namespace Sys2Proof.Machine

/-- A block-relative address as the bus carries it. -/
def busAddr (a : Nat) : Addr := BitVec.ofNat 23 a

/-- `WR <register>, <value>` -/
def Script.wr (r : Reg) (v : Word) : List Event := [.hostWrite (busAddr r.offset) v]

/-- `WR <address>, <value>` -/
def Script.wrAt (a : Nat) (v : Word) : List Event := [.hostWrite (busAddr a) v]

/-- `RD <register>` -/
def Script.rd (r : Reg) : List Event := [.hostRead (busAddr r.offset)]

/-- `RD <address>` -/
def Script.rdAt (a : Nat) : List Event := [.hostRead (busAddr a)]

/-- `CMD <MNEMONIC>` and `CMD TDEC, <iter>` -/
def Script.cmd (i : Instr) : List Event := Script.wr .cmd (encode i)

/-- `WAIT`: `polls` reads of STATUS before the sequencer's turn and one after it. Every number of earlier polls is
allowed (70_reset_and_hazards.md R381), so it is an argument (log entry 10). -/
def Script.wait (polls : Nat) : List Event :=
  List.replicate polls (.hostRead (busAddr Reg.status.offset)) ++ [.sequencer, .hostRead (busAddr Reg.status.offset)]

/-- `CLEAR`: W1C of DONE, ERR, CMD_OVR and ACC_ERR -/
def Script.clear : List Event := Script.wr .status 0x0000001E

/-- Four cells as one bus word, the first in bits [7:0] (20_memory.md R94). -/
def cellsWord (b0 b1 b2 b3 : Byte) : Word := (b3 ++ b2 ++ b1 ++ b0 : BitVec (8 + 8 + 8 + 8))

/-- The word writes that lay a byte sequence from an address upwards; missing bytes of the last word are 0. -/
def bytesFrom (a : Nat) : List Byte → List Event
  | [] => []
  | [b0] => [.hostWrite (busAddr a) (cellsWord b0 0 0 0)]
  | [b0, b1] => [.hostWrite (busAddr a) (cellsWord b0 b1 0 0)]
  | [b0, b1, b2] => [.hostWrite (busAddr a) (cellsWord b0 b1 b2 0)]
  | b0 :: b1 :: b2 :: b3 :: rest => .hostWrite (busAddr a) (cellsWord b0 b1 b2 b3) :: bytesFrom (a + 4) rest

/-- `CELLS <region>, <off>, …` and `BYTES <region>, <off>, …` -/
def Script.bytes (r : Region) (off : Nat) (ys : List Byte) : List Event := bytesFrom (r.base + off) ys

/-- `F64 <region>, <index>, …`: the low word, then the high word of each element -/
def Script.f64 (r : Region) : Nat → List F64 → List Event
  | _, [] => []
  | i, x :: xs =>
    .hostWrite (busAddr (r.base + 8 * i)) (x.extractLsb' 0 32)
      :: .hostWrite (busAddr (r.base + 8 * i + 4)) (x.extractLsb' 32 32) :: Script.f64 r (i + 1) xs

/-- `U32 <region>, <index>, …` -/
def Script.u32 (r : Region) : Nat → List Word → List Event
  | _, [] => []
  | i, v :: vs => .hostWrite (busAddr (r.base + 4 * i)) v :: Script.u32 r (i + 1) vs

end Sys2Proof.Machine
end

