-- ==== Sys2Proof/Tests/Slice0.lean ====
section
/-! SUPPORT. Small tests: ill-formed terms refused, decoding of words written out from 30_encoding.md, one or two steps per
command with results taken from the examples of spec/, and for every statement with hypotheses a witness that meets them. -/

namespace Sys2Proof.Tests

-- One theorem after another: elaborated side by side, each waiting kernel evaluation would hold a thread and its stack.
set_option Elab.async false

open Sys2Proof Sys2Proof.Machine

/-! Helpers. -/

/-- A block with a register file and some written bytes. -/
def blk (c : Csr) (cells : List Host.Cell) : State := { State.reset with csr := c, ram := ⟨cells⟩ }

/-- The same with pending events. -/
def evs (c : Csr) (es : List Event) : State := { State.reset with csr := c, events := es }

/-- Bytes of a region from its first byte on. -/
def fill (r : Region) (ys : List Byte) : List Host.Cell := cellsFrom r.base ys

/-- SRC starting with `n` zero cells. -/
def zeros (c : Csr) (n : Nat) : State := blk c (fill .src (List.replicate n 0))

/-- The state after a command. -/
def after (i : Instr) (s : State) : State :=
  match exec i s with
  | .next t => t
  | .fault _ | .refused _ => s

/-- The state after a step. -/
def stepped (s : State) : State :=
  match step s with
  | .next t => t
  | .fault _ | .refused _ => s

/-- The first bytes of DST. -/
def dstBytes (s : State) (n : Nat) : List Byte := (List.range n).map s.dst8

/-- ERRCODE and ERR_INFO, when ERR stands. -/
def report (s : State) : Option (Nat × Nat) := if s.csr.err then some (s.csr.errcode.toNat, s.csr.errInfo.toNat) else none

theorem zeros_src8 (c : Csr) {n i : Nat} (h : i < n) : (zeros c n).src8 i = 0 := by
  simp [State.src8, State.readByte, zeros, blk, fill, Memory.lookup, lookup_cellsFrom, Region.base, h]

theorem zeros_binary (c : Csr) (n : Nat) : binarySrc (zeros c n) n := fun _ h => .inl (zeros_src8 c h)

/-! WellFormed (30_encoding.md R133): the one check refuses an iteration count of 0. -/

theorem test_wellFormed_refuses_iter_zero : (Instr.tdec 0).wellFormed = false := by decide
theorem test_wellFormed_accepts_iter_bounds :
    (Instr.tdec 1).wellFormed = true ∧ (Instr.tdec 255).wellFormed = true ∧ Instr.nop.wellFormed = true := by decide

/-! Decoding: words written out as RSV, ARG, OP (30_encoding.md R130, R132). -/

theorem test_decode_control :
    decode 0b0000000000000000_00000000_00000000 = .ok .nop ∧ decode 0b0000000000000000_00000000_00000001 = .ok .ilvchk := by
  decide
theorem test_decode_bitframe :
    decode 0b0000000000000000_00000000_00000010 = .ok .pack ∧ decode 0b0000000000000000_00000000_00000011 = .ok .unpack := by
  decide
theorem test_decode_turbo :
    decode 0b0000000000000000_00000000_00010000 = .ok .rscenc ∧ decode 0b0000000000000000_00000000_00010001 = .ok .ilv ∧
      decode 0b0000000000000000_00000000_00010010 = .ok .dilv ∧ decode 0b0000000000000000_00000000_00010011 = .ok .tenc ∧
      decode 0b0000000000000000_00000110_00011000 = .ok (.tdec 6) ∧
      decode 0b0000000000000000_11111111_00011000 = .ok (.tdec 255) := by decide
theorem test_decode_framer :
    decode 0b0000000000000000_00000000_00100000 = .ok .crc ∧ decode 0b0000000000000000_00000000_00100001 = .ok .fbuild ∧
      decode 0b0000000000000000_00000000_00100010 = .ok .fparse := by decide
theorem test_decode_modems :
    decode 0b0000000000000000_00000000_00110000 = .ok .amod ∧ decode 0b0000000000000000_00000000_00110001 = .ok .adem ∧
      decode 0b0000000000000000_00000000_00111000 = .ok .qmod ∧ decode 0b0000000000000000_00000000_00111001 = .ok .qdem := by
  decide
/-- Each clause of R133 refuses by its own name. -/
theorem test_decode_refuses :
    decode 0x00010000 = .error .reservedNonzero ∧ decode 0x000000E0 = .error .unassignedOp ∧
      decode 0x00000113 = .error .argNonzero ∧ decode 0x00000018 = .error .iterOutOfRange := by decide
theorem test_decodeTableWord : decodeTableWord 32 0x618 = some (.tdec 6) ∧ decodeTableWord 32 0x113 = none := by decide
/-- The very next step completes the placed word. -/
theorem test_withFetchWord_step :
    (stepped (State.reset.withFetchWord 32 0x00000000)).csr.statusWord = 0x00000002 ∧
      (stepped (State.reset.withFetchWord 32 0x00000113)).csr.errInfo = 0x00000113 := by decide

/-! Commands: the examples of spec/. -/

/-- 40_control.md R150: STATUS = 0x00000002 after a NOP. -/
theorem test_nop : (after .nop State.reset).csr.statusWord = 0x00000002 := by decide

/-- A legal `N` and a table. -/
def table8 (n : Nat) (es : List Nat) (c : Csr) : State :=
  blk { c with frameLen := BitVec.ofNat 16 n } (fill .ilv (es.flatMap (leBytes 4)))

/-- 42_turbo_encoder.md R193, both examples. -/
theorem test_ilvchk_permutation :
    (after .ilvchk (table8 8 [3, 7, 1, 5, 0, 4, 2, 6] Csr.reset)).csr.ilvValid = true := by decide +kernel
theorem test_ilvchk_repeat : report (after .ilvchk (table8 8 [3, 7, 1, 5, 0, 4, 2, 3] Csr.reset)) = some (0x12, 7) := by
  decide +kernel

/-- 41_bitframe.md R172: "He". -/
theorem test_pack :
    dstBytes (after .pack (blk { Csr.reset with srcLen := 16 } (fill .src [0, 1, 0, 0, 1, 0, 0, 0, 0, 1, 1, 0, 0, 1, 0, 1]))) 2
      = [0x48, 0x65] := by decide +kernel
/-- 60_exceptions.md R330: the least non-binary index. -/
theorem test_pack_nonbinary :
    report (after .pack (blk { Csr.reset with srcLen := 8 } (fill .src [0, 1, 0, 2, 1, 0, 3, 0]))) = some (0x03, 3) := by
  decide +kernel

/-- 41_bitframe.md R174: 0xAA 0x55. -/
theorem test_unpack :
    dstBytes (after .unpack (blk { Csr.reset with srcLen := 2 } (fill .src [0xAA, 0x55]))) 16
      = [1, 0, 1, 0, 1, 0, 1, 0, 0, 1, 0, 1, 0, 1, 0, 1] := by decide +kernel

/-- The frame `1,0,1,0,1,0,1,0` beside the interleaver of the examples of 42_turbo_encoder.md. -/
def turbo8 : State :=
  blk { Csr.reset with frameLen := 8, srcLen := 8, ilvValid := true }
    (fill .ilv ([3, 7, 1, 5, 0, 4, 2, 6].flatMap (leBytes 4)) ++ fill .src [1, 0, 1, 0, 1, 0, 1, 0])

/-- 42_turbo_encoder.md R195. -/
theorem test_rscenc :
    dstBytes (after .rscenc turbo8) 16 = [1, 0, 1, 0, 1, 0, 1, 0, 1, 0, 1, 0, 1, 0, 1, 0] ∧
      (after .rscenc turbo8).csr.rsc1State = 3 := by decide +kernel
/-- 42_turbo_encoder.md R198. -/
theorem test_tenc :
    dstBytes (after .tenc turbo8) 24 = [1, 0, 1, 0, 1, 0, 1, 0, 1, 0, 1, 0, 1, 0, 1, 0, 0, 0, 0, 0, 1, 1, 1, 1] ∧
      (after .tenc turbo8).csr.rsc1State = 3 ∧ (after .tenc turbo8).csr.rsc2State = 2 := by decide +kernel

/-- The same interleaver with other bytes. -/
def bytes8 (ys : List Byte) : State :=
  blk { Csr.reset with frameLen := 8, srcLen := 8, ilvValid := true }
    (fill .ilv ([3, 7, 1, 5, 0, 4, 2, 6].flatMap (leBytes 4)) ++ fill .src ys)

/-- 42_turbo_encoder.md R196. -/
theorem test_ilv :
    dstBytes (after .ilv (bytes8 [0x10, 0x11, 0x12, 0x13, 0x14, 0x15, 0x16, 0x17])) 8
      = [0x13, 0x17, 0x11, 0x15, 0x10, 0x14, 0x12, 0x16] := by decide +kernel
/-- 42_turbo_encoder.md R197. -/
theorem test_dilv :
    dstBytes (after .dilv (bytes8 [0x13, 0x17, 0x11, 0x15, 0x10, 0x14, 0x12, 0x16])) 8
      = [0x10, 0x11, 0x12, 0x13, 0x14, 0x15, 0x16, 0x17] := by decide +kernel

/-- One position of a received frame with N = 1. -/
def soft1 (rs rp1 rp2 : F64) : State :=
  blk { Csr.reset with frameLen := 1, srcLen := 3, ilvValid := true }
    (fill .ilv [0, 0, 0, 0] ++ fill .src (f64Bytes [rs, rp1, rp2]))

/-- 43_turbo_decoder.md R227: `rs = +inf`, one iteration and two. -/
theorem test_tdec_infinite :
    dstBytes (after (.tdec 1) (soft1 0x7FF0000000000000 0 0)) 1 = [1] ∧
      dstBytes (after (.tdec 2) (soft1 0x7FF0000000000000 0 0)) 1 = [0] := by decide +kernel
/-- 43_turbo_decoder.md R227: the smallest subnormal decides 1, an exact cancellation 0. -/
theorem test_tdec_small :
    dstBytes (after (.tdec 6) (soft1 1 0 0)) 1 = [1] ∧
      dstBytes (after (.tdec 6) (soft1 0x3FE0000000000000 0xBFE0000000000000 0)) 1 = [0] := by decide +kernel

/-- The bit cells of some bytes, as SRC. -/
def cellsOf (ys : List Byte) : State :=
  blk { Csr.reset with srcLen := BitVec.ofNat 32 (8 * ys.length) } (fill .src (bitsToCells (unpackBytes ys)))

/-- 46_framer.md R301. -/
theorem test_crc : (after .crc (cellsOf [0xAA, 0x55, 0x00, 0x02, 0x48, 0x65])).csr.crcResult = 0xED43 := by decide +kernel
/-- 46_framer.md R302. -/
theorem test_fbuild :
    packBits ((dstBytes (after .fbuild (cellsOf [0x48, 0x65])) 64).map cellBit)
      = [0xAA, 0x55, 0x00, 0x02, 0x48, 0x65, 0xED, 0x43] := by decide +kernel
/-- 46_framer.md R303. -/
theorem test_fparse :
    dstBytes (after .fparse (cellsOf [0xAA, 0x55, 0x00, 0x02, 0x48, 0x65, 0xED, 0x43])) 16
      = [0, 1, 0, 0, 1, 0, 0, 0, 0, 1, 1, 0, 0, 1, 0, 1] := by decide +kernel
/-- 46_framer.md R306: a flipped payload bit. -/
theorem test_fparse_crc_mismatch :
    report (after .fparse (cellsOf [0xAA, 0x55, 0x00, 0x02, 0xC8, 0x65, 0xED, 0x43])) = some (0x06, 0xED432D22) := by
  decide +kernel

/-- The carrier of the ASK examples. -/
def ask4 (srcLen : Nat) (src : List Byte) : State :=
  blk { Csr.reset with askSpb := 4, srcLen := BitVec.ofNat 32 srcLen }
    (fill .acar (f64Bytes [F64.zero, F64.one, F64.zero, F64.neg F64.one]) ++ fill .src src)

/-- 44_ask_modem.md R251. -/
theorem test_amod :
    (List.range 8).map ((after .amod (ask4 2 [1, 0])).f64At .dst)
      = [F64.zero, F64.one, F64.zero, F64.neg F64.one, F64.zero, F64.zero, F64.zero, F64.neg F64.zero] := by decide +kernel
/-- 44_ask_modem.md R252. -/
theorem test_adem :
    dstBytes (after .adem (ask4 8 (f64Bytes [F64.zero, F64.one, F64.zero, F64.neg F64.one, F64.zero, F64.one, F64.zero,
      F64.zero]))) 2 = [1, 0] := by decide +kernel

/-- The configuration of the QPSK examples of 45_qpsk_modem.md R272. -/
def qpsk (srcLen : Nat) (mode : BitVec 2) (src : List Byte) : State :=
  blk { Csr.reset with qpskSps := 2, qpskNtaps := 2, qpskFrameLen := 4, smpMode := mode, srcLen := BitVec.ofNat 32 srcLen }
    (fill .tap (f64Bytes [F64.one, F64.one]) ++ fill .src src
      ++ fill .qcos (f64Bytes [F64.one, F64.zero, F64.neg F64.one, F64.zero, F64.one])
      ++ fill .qsin (f64Bytes [F64.zero, F64.one, F64.zero, F64.neg F64.one, F64.zero]))

/-- The example signal: `−A` four times, then +0.0. -/
def qpskSignal : List F64 := [F64.neg F64.ampA, F64.neg F64.ampA, F64.neg F64.ampA, F64.neg F64.ampA, F64.zero]

/-- 45_qpsk_modem.md R272. -/
theorem test_qmod : (List.range 5).map ((after .qmod (qpsk 4 0 [0, 1, 1, 0])).f64At .dst) = qpskSignal := by decide +kernel
/-- 45_qpsk_modem.md R280, example 1, CENTRE and MANUAL with OFFSET = 0. -/
theorem test_qdem :
    dstBytes (after .qdem (qpsk 5 0 (f64Bytes qpskSignal))) 4 = [0, 1, 1, 0] ∧
      dstBytes (after .qdem (qpsk 5 2 (f64Bytes qpskSignal))) 4 = [0, 1, 0, 0] := by decide +kernel

/-- A script: configure, load, run and wait (30_encoding.md R138; 95_test_vectors.md form). -/
theorem test_script_pack :
    (match Host.Core.run Sys2Proof.core 7 (evs Csr.reset
        (Script.wr .srcLen 8 ++ Script.bytes .src 0 [1, 0, 0, 0, 0, 0, 0, 1] ++ Script.cmd .pack ++ Script.wait 1)) with
      | .next t => dstBytes t 1
      | .fault _ | .refused _ => []) = [0x81] := by decide +kernel

/-! Witnesses: states and operands that meet the hypotheses of each statement, clause by clause, at boundary values. -/

/-- A BUSY block with a latched word. -/
def busy (w : Word) (es : List Event) : State := evs { Csr.reset with busy := true, lastCmd := w } es

theorem test_witness_StepRunsTheLatchedCommand :
    (busy 0x02 [.sequencer]).csr.busy = true ∧ decode (busy 0x02 [.sequencer]).csr.lastCmd = .ok .pack ∧
      (busy 0x02 [.sequencer]).events = .sequencer :: [] ∧ (busy 0x02 []).events = [] := by decide

theorem test_witness_IllegalWordCompletesWithItself :
    (busy 0x00010000 [.sequencer]).csr.busy = true ∧ (busy 0x00010000 [.sequencer]).events = .sequencer :: [] ∧
      ∀ i, decode (busy 0x00010000 [.sequencer]).csr.lastCmd ≠ .ok i :=
  ⟨rfl, rfl, fun i h => by
    have hd : decode (busy 0x00010000 [.sequencer]).csr.lastCmd = .error .reservedNonzero := by decide
    rw [hd] at h
    cases h⟩

theorem test_witness_CmdWriteInIdleIsAccepted :
    (evs Csr.reset [.hostWrite 0x010 0xFFFFFFFF]).csr.busy = false ∧
      (evs Csr.reset [.hostWrite 0x010 0xFFFFFFFF]).events = .hostWrite 0x010 0xFFFFFFFF :: [] := by decide

/-- CMD_OVR set, with one event. -/
def overrun (e : Event) : State := evs { Csr.reset with cmdOvr := true } [e]

theorem test_witness_CmdWriteWhileBusyIsDropped :
    (busy 0x00 [.hostWrite 0x010 0x02]).csr.busy = true ∧
      (busy 0x00 [.hostWrite 0x010 0x02]).events = .hostWrite 0x010 0x02 :: [] ∧
      ∀ e ∈ ([.hostWrite 0x00C 0x08, .hostWrite 0x008 0x02, .powerOn] : List Event),
        step (overrun e) = .next (stepped (overrun e)) ∧ (overrun e).csr.cmdOvr = true ∧
          (stepped (overrun e)).csr.cmdOvr = false := by
  refine ⟨rfl, rfl, ?_⟩
  intro e he
  simp only [List.mem_cons, List.not_mem_nil, or_false] at he
  rcases he with rfl | rfl | rfl <;> exact ⟨rfl, rfl, rfl⟩

theorem test_witness_IlvchkValidatesTheTable :
    (¬ frameLegal (table8 0 [] Csr.reset) ∧ ¬ frameLegal (table8 4097 [] Csr.reset)) ∧
    (frameLegal (table8 1 [1] Csr.reset) ∧ 0 < (table8 1 [1] Csr.reset).frameN ∧
      (table8 1 [1] Csr.reset).frameN ≤ (table8 1 [1] Csr.reset).ilvEntry 0) ∧
    ((∃ j, j < 1 ∧ (table8 2 [1, 1] Csr.reset).ilvEntry j = (table8 2 [1, 1] Csr.reset).ilvEntry 1) ∧
      ∀ m, m < 1 → (table8 2 [1, 1] Csr.reset).ilvEntry m < (table8 2 [1, 1] Csr.reset).frameN ∧
        ∀ j, j < m → (table8 2 [1, 1] Csr.reset).ilvEntry j ≠ (table8 2 [1, 1] Csr.reset).ilvEntry m) ∧
    (table8 1 [0] Csr.reset).holdsPermutation :=
  ⟨⟨by decide +kernel, by decide +kernel⟩, by decide +kernel, ⟨⟨0, by decide, by decide +kernel⟩, by decide +kernel⟩,
    by decide +kernel⟩

/-- Only SRC_LEN set. -/
def len (n : Nat) : Csr := { Csr.reset with srcLen := BitVec.ofNat 32 n }

/-- Eight cells, the last not binary. -/
def badCells (c : Csr) : State := blk c (fill .src [0, 1, 0, 0, 0, 0, 0, 2])

theorem test_witness_PackFollowsItsRule :
    (zeros (len 1) 0).srcLen % 8 ≠ 0 ∧ (zeros (len 0x100008) 0).srcLen % 8 = 0 ∧ 0x100000 < (zeros (len 0x100008) 0).srcLen ∧
      leastNonBinary (badCells (len 8)) (badCells (len 8)).srcLen 7 ∧ binarySrc (zeros (len 0) 0) 0 ∧
      (zeros (len 0x100000) 0x100000).srcLen % 8 = 0 ∧ (zeros (len 0x100000) 0x100000).srcLen ≤ 0x100000 ∧
      binarySrc (zeros (len 0x100000) 0x100000) 0x100000 :=
  ⟨by decide, by decide, by decide, by decide +kernel, zeros_binary _ _, by decide, by decide, zeros_binary _ _⟩

theorem test_witness_UnpackFollowsItsRule :
    0x100000 < (zeros (len 0x100001) 0).srcLen ∧ (zeros (len 131073) 0).srcLen ≤ 0x100000 ∧
      0x100000 < 8 * (zeros (len 131073) 0).srcLen ∧ 8 * (zeros (len 131072) 0).srcLen ≤ 0x100000 := by decide

/-- Turbo configurations: N, K, taps, SRC_LEN, ILV_VALID. -/
def turbo (n k a b len : Nat) (valid : Bool) : Csr :=
  { Csr.reset with
    frameLen := BitVec.ofNat 16 n, constraintLen := BitVec.ofNat 5 k, tapA := BitVec.ofNat 4 a, tapB := BitVec.ofNat 4 b
    srcLen := BitVec.ofNat 32 len, ilvValid := valid }

/-- One entry 0 in the ILV table and one cell in SRC. -/
def one (c : Csr) (cell : Byte) : State := blk c (fill .ilv [0, 0, 0, 0] ++ fill .src [cell])

theorem test_witness_RscencFollowsItsRule :
    (¬ frameLegal (one (turbo 0 3 1 0 1 true) 1) ∧ ¬ frameLegal (one (turbo 4097 3 1 0 1 true) 1)) ∧
    (¬ constraintOk (one (turbo 1 2 1 0 1 true) 1) ∧ ¬ constraintOk (one (turbo 4096 17 1 0 1 true) 1)) ∧
    (¬ tapsOk (one (turbo 1 3 1 1 1 true) 1) ∧ ¬ tapsOk (one (turbo 1 3 2 0 1 true) 1) ∧
      ¬ tapsOk (one (turbo 1 16 0 15 1 true) 1)) ∧
    (one (turbo 1 3 1 0 2 true) 1).srcLen ≠ (one (turbo 1 3 1 0 2 true) 1).frameN ∧
    leastNonBinary (one (turbo 1 3 1 0 1 true) 2) 1 0 ∧
    (frameLegal (one (turbo 1 3 1 0 1 true) 1) ∧ constraintOk (one (turbo 1 3 1 0 1 true) 1) ∧
      tapsOk (one (turbo 1 3 1 0 1 true) 1) ∧
      (one (turbo 1 3 1 0 1 true) 1).srcLen = (one (turbo 1 3 1 0 1 true) 1).frameN ∧
      binarySrc (one (turbo 1 3 1 0 1 true) 1) 1) ∧
    (constraintOk (one (turbo 1 16 14 0 1 true) 1) ∧ tapsOk (one (turbo 1 16 14 0 1 true) 1)) :=
  ⟨by decide +kernel, by decide +kernel, by decide +kernel, by decide +kernel, by decide +kernel, by decide +kernel,
    by decide +kernel⟩

theorem test_witness_IlvFollowsItsRule :
    ¬ frameLegal (one (turbo 0 3 1 0 1 true) 1) ∧ (one (turbo 1 3 1 0 1 false) 1).csr.ilvValid = false ∧
      (one (turbo 1 3 1 0 0 true) 1).srcLen ≠ (one (turbo 1 3 1 0 0 true) 1).frameN ∧
      frameLegal (one (turbo 1 3 1 0 1 true) 1) ∧ (one (turbo 1 3 1 0 1 true) 1).csr.ilvValid = true ∧
      (one (turbo 1 3 1 0 1 true) 1).srcLen = (one (turbo 1 3 1 0 1 true) 1).frameN ∧
      (one (turbo 1 3 1 0 1 true) 1).interleaverKept := by decide +kernel

/-- DILV takes the states of ILV's witness; this one also holds a permutation. -/
theorem test_witness_DilvFollowsItsRule : (one (turbo 1 3 1 0 1 true) 1).interleaverKept := by decide +kernel

/-- TENC takes the states of the witnesses of RSCENC and ILV together. -/
theorem test_witness_TencFollowsItsRule :
    (frameLegal (one (turbo 1 3 1 0 1 false) 1) ∧ constraintOk (one (turbo 1 3 1 0 1 false) 1) ∧
      tapsOk (one (turbo 1 3 1 0 1 false) 1) ∧ (one (turbo 1 3 1 0 1 false) 1).csr.ilvValid = false) ∧
    (frameLegal (one (turbo 1 16 14 0 1 true) 1) ∧ constraintOk (one (turbo 1 16 14 0 1 true) 1) ∧
      tapsOk (one (turbo 1 16 14 0 1 true) 1) ∧ (one (turbo 1 16 14 0 1 true) 1).csr.ilvValid = true ∧
      (one (turbo 1 16 14 0 1 true) 1).srcLen = (one (turbo 1 16 14 0 1 true) 1).frameN ∧
      binarySrc (one (turbo 1 16 14 0 1 true) 1) 1 ∧ (one (turbo 1 16 14 0 1 true) 1).interleaverKept) :=
  ⟨by decide +kernel, by decide +kernel⟩

theorem test_witness_TdecFollowsItsRule :
    ((1 : BitVec 8) ≠ 0 ∧ (255 : BitVec 8) ≠ 0) ∧ ¬ frameLegal (one (turbo 0 3 1 0 0 true) 0) ∧
      (one (turbo 1 3 1 0 3 false) 0).csr.ilvValid = false ∧
      (one (turbo 1 3 1 0 2 true) 0).srcLen ≠ 3 * (one (turbo 1 3 1 0 2 true) 0).frameN ∧
      frameLegal (soft1 0 0 0) ∧ (soft1 0 0 0).csr.ilvValid = true ∧ (soft1 0 0 0).srcLen = 3 * (soft1 0 0 0).frameN ∧
      (soft1 0 0 0).interleaverKept := by decide +kernel

/-- CRC takes the states of PACK's witness. -/
theorem test_witness_CrcFollowsItsRule :
    (zeros (len 7) 0).srcLen % 8 ≠ 0 ∧ 0x100000 < (zeros (len 0x100008) 0).srcLen ∧
      leastNonBinary (badCells (len 8)) (badCells (len 8)).srcLen 7 ∧
      binarySrc (zeros (len 0x100000) 0x100000) 0x100000 ∧ (zeros (len 0x100000) 0x100000).srcLen % 8 = 0 :=
  ⟨by decide, by decide, by decide +kernel, zeros_binary _ _, by decide⟩

theorem test_witness_FbuildFollowsItsRule :
    (zeros (len 7) 0).srcLen % 8 ≠ 0 ∧ ((zeros (len 524288) 0).srcLen % 8 = 0 ∧ 65535 < (zeros (len 524288) 0).srcLen / 8) ∧
      leastNonBinary (badCells (len 8)) (badCells (len 8)).srcLen 7 ∧
      (zeros (len 524280) 524280).srcLen % 8 = 0 ∧ (zeros (len 524280) 524280).srcLen / 8 ≤ 65535 ∧
      binarySrc (zeros (len 524280) 524280) 524280 :=
  ⟨by decide, by decide, by decide +kernel, by decide, by decide, zeros_binary _ _⟩

/-- 48 cells, all 0 but perhaps one; the header register is 0. -/
def frame48 (hot : Option Nat) : State :=
  blk { Csr.reset with srcLen := 48, frHeader := 0 }
    (fill .src ((List.range 48).map (fun i => if some i = hot then 1 else 0)))

theorem test_witness_FparseFollowsItsRule :
    ((zeros (len 7) 0).srcLen % 8 ≠ 0 ∧ 0x100000 < (zeros (len 0x100008) 0).srcLen) ∧
    leastNonBinary (badCells (len 8)) (badCells (len 8)).srcLen 7 ∧
    (binarySrc (zeros (len 40) 40) 40 ∧ (zeros (len 40) 40).srcLen / 8 < 6) ∧
    (binarySrc (frame48 (some 15)) 48 ∧ refField (refPacked (frame48 (some 15))) 0 ≠ (frame48 (some 15)).csr.frHeader) ∧
    (refField (refPacked (frame48 (some 31))) 0 = (frame48 (some 31)).csr.frHeader ∧
      48 / 8 - 6 < (refField (refPacked (frame48 (some 31))) 2).toNat) ∧
    (refField (refPacked (frame48 (some 47))) 0 = (frame48 (some 47)).csr.frHeader ∧
      (refField (refPacked (frame48 (some 47))) 2).toNat ≤ 48 / 8 - 6 ∧
      refCrcOf (frame48 (some 47)) (refPacked (frame48 (some 47))) 4 ≠ refField (refPacked (frame48 (some 47))) 4) ∧
    (binarySrc (frame48 none) 48 ∧ refField (refPacked (frame48 none)) 0 = (frame48 none).csr.frHeader ∧
      (refField (refPacked (frame48 none)) 2).toNat ≤ 48 / 8 - 6 ∧
      refCrcOf (frame48 none) (refPacked (frame48 none)) 4 = refField (refPacked (frame48 none)) 4) :=
  ⟨by decide, by decide +kernel, ⟨zeros_binary _ _, by decide⟩, by decide +kernel, by decide +kernel, by decide +kernel,
    by decide +kernel⟩

/-- ASK configurations. -/
def ask (spb n : Nat) : Csr := { len n with askSpb := BitVec.ofNat 16 spb }

theorem test_witness_AmodFollowsItsRule :
    (¬ spbOk (zeros (ask 0 1) 1) ∧ ¬ spbOk (zeros (ask 8193 1) 1)) ∧ 0x100000 < (zeros (ask 1 0x100001) 0).srcLen ∧
    ((zeros (ask 1 131073) 0).srcLen ≤ 0x100000 ∧
      0x100000 < 8 * (zeros (ask 1 131073) 0).srcLen * (zeros (ask 1 131073) 0).spb) ∧
    leastNonBinary (badCells (ask 1 8)) (badCells (ask 1 8)).srcLen 7 ∧
    (spbOk (zeros (ask 8192 16) 16) ∧ 8 * (zeros (ask 8192 16) 16).srcLen * (zeros (ask 8192 16) 16).spb ≤ 0x100000 ∧
      binarySrc (zeros (ask 8192 16) 16) 16) :=
  ⟨by decide, by decide, by decide, by decide +kernel, by decide, by decide, zeros_binary _ _⟩

theorem test_witness_AdemFollowsItsRule :
    (¬ spbOk (zeros (ask 0 0) 0) ∧ ¬ spbOk (zeros (ask 8193 0) 0)) ∧
    (zeros (ask 2 1) 0).srcLen % (zeros (ask 2 1) 0).spb ≠ 0 ∧ 0x100000 < 8 * (zeros (ask 1 131073) 0).srcLen ∧
    (spbOk (zeros (ask 8192 131072) 0) ∧ (zeros (ask 8192 131072) 0).srcLen % (zeros (ask 8192 131072) 0).spb = 0 ∧
      8 * (zeros (ask 8192 131072) 0).srcLen ≤ 0x100000) := by decide

/-- QPSK configurations: SPS, FL, NT, SRC_LEN. -/
def qcfg (sps fl nt n : Nat) : Csr :=
  { len n with qpskSps := BitVec.ofNat 16 sps, qpskFrameLen := BitVec.ofNat 21 fl, qpskNtaps := BitVec.ofNat 11 nt }

theorem test_witness_QmodFollowsItsRule :
    ((zeros (qcfg 0 2 1 2) 2).sps = 0 ∧ (zeros (qcfg 1 1 1 2) 2).fl % 2 = 1 ∧ (zeros (qcfg 1 0 1 2) 2).fl = 0 ∧
      (zeros (qcfg 1 2 0 2) 2).nt = 0 ∧ 1024 < (zeros (qcfg 1 2 1025 2) 2).nt) ∧
    (zeros (qcfg 1 2 1 3) 2).srcLen ≠ (zeros (qcfg 1 2 1 3) 2).fl ∧
    ((zeros (qcfg 1 0x100002 1 0x100002) 0).srcLen = (zeros (qcfg 1 0x100002 1 0x100002) 0).fl ∧
      0x100000 < (zeros (qcfg 1 0x100002 1 0x100002) 0).srcLen) ∧
    131072 < (zeros (qcfg 65535 4 4 4) 4).fl / 2 * (zeros (qcfg 65535 4 4 4) 4).sps + (zeros (qcfg 65535 4 4 4) 4).nt - 1 ∧
    leastNonBinary (badCells (qcfg 1 8 1 8)) (badCells (qcfg 1 8 1 8)).fl 7 ∧
    (qpskOk (zeros (qcfg 65535 4 3 4) 4) ∧ (zeros (qcfg 65535 4 3 4) 4).srcLen = (zeros (qcfg 65535 4 3 4) 4).fl ∧
      (zeros (qcfg 65535 4 3 4) 4).fl / 2 * (zeros (qcfg 65535 4 3 4) 4).sps + (zeros (qcfg 65535 4 3 4) 4).nt - 1 ≤ 131072 ∧
      binarySrc (zeros (qcfg 65535 4 3 4) 4) 4) ∧
    (qpskOk (zeros (qcfg 1 2 1 2) 2) ∧ qpskOk (zeros (qcfg 1 2 1024 2) 2)) :=
  ⟨by decide, by decide, by decide, by decide, by decide +kernel, ⟨by decide, by decide, by decide, zeros_binary _ _⟩,
    by decide⟩

/-- QDEM configurations: the same with MODE, OFFSET and NOISE_EN. -/
def qcfg' (sps fl nt n mode off : Nat) (noise : Bool) : State :=
  zeros { qcfg sps fl nt n with smpMode := BitVec.ofNat 2 mode, smpOffset := BitVec.ofNat 21 off, noiseEn := noise } 0

/-- (The capacity check FL > BUF_BYTES of R280 has no witness: a signal that fits the carrier tables has FL ≤ 262144.) -/
theorem test_witness_QdemFollowsItsRule :
    ((qcfg' 0 2 1 1 0 0 false).sps = 0 ∧ (qcfg' 1 3 1 1 0 0 false).fl % 2 = 1 ∧ (qcfg' 1 2 0 1 0 0 false).nt = 0) ∧
    (¬ sampleOk (qcfg' 1 2 1 1 3 0 false) ∧ ¬ sampleOk (qcfg' 1 2 1 1 2 1 false) ∧ sampleOk (qcfg' 1 2 1 1 2 0 false)) ∧
    (qcfg' 1 2 1 2 0 0 false).srcLen ≠ (qcfg' 1 2 1 2 0 0 false).signalLen ∧
    ((qcfg' 65535 4 4 131073 0 0 false).srcLen = (qcfg' 65535 4 4 131073 0 0 false).signalLen ∧
      131072 < (qcfg' 65535 4 4 131073 0 0 false).signalLen) ∧
    ((qcfg' 1 131074 1 65537 0 0 true).srcLen = (qcfg' 1 131074 1 65537 0 0 true).signalLen ∧
      131072 < (qcfg' 1 131074 1 65537 0 0 true).fl) ∧
    (qpskOk (qcfg' 65535 4 3 131072 1 0 true) ∧ sampleOk (qcfg' 65535 4 3 131072 1 0 true) ∧
      (qcfg' 65535 4 3 131072 1 0 true).srcLen = (qcfg' 65535 4 3 131072 1 0 true).signalLen ∧
      (qcfg' 65535 4 3 131072 1 0 true).signalLen ≤ 131072 ∧ (qcfg' 65535 4 3 131072 1 0 true).fl ≤ 131072) := by decide

theorem test_witness_PackAndUnpackAreInverse : ([true, false, true, false, false, false, false, true] : List Bool).length % 8 = 0 := by
  decide

theorem test_witness_DeinterleaveInvertsInterleave :
    ([1, 0] : List Nat).Perm (List.range 2) ∧ ([0x10, 0x11] : List Byte).length = 2 := by decide

/-- The largest finite value. -/
def maxFinite : F64 := 0x7FEFFFFFFFFFFFFF

/-- Finite operands: an overflow at the least overflowing sum, and a tie (1 + 2^-53 lies between 1 and 1 + 2^-52). -/
theorem test_witness_AdditionRoundsToNearestEven :
    (F64.isFinite maxFinite = true ∧ F64.isFinite 0x7C90000000000000 = true ∧
      F64.isInf (F64.add maxFinite 0x7C90000000000000) = true ∧ F64.isFinite (F64.add maxFinite 0x7C8FFFFFFFFFFFFF) = true) ∧
    (F64.isFinite (F64.add F64.one 0x3CA0000000000000) = true ∧ F64.isFinite 0x3FF0000000000001 = true ∧
      F64.value 0x3FF0000000000001 ≠ F64.value (F64.add F64.one 0x3CA0000000000000) ∧
      (F64.value (F64.add F64.one 0x3CA0000000000000) - (F64.value F64.one + F64.value 0x3CA0000000000000)).natAbs =
        (F64.value 0x3FF0000000000001 - (F64.value F64.one + F64.value 0x3CA0000000000000)).natAbs) := by decide +kernel

/-- Finite operands: an overflow, and a tie (half the smallest subnormal lies between 0 and it). -/
theorem test_witness_MultiplicationRoundsToNearestEven :
    (F64.isFinite maxFinite = true ∧ F64.isFinite F64.two = true ∧ F64.isFinite (F64.mul maxFinite F64.two) = false) ∧
    (F64.isFinite (F64.mul 1 0x3FE0000000000000) = true ∧ F64.value 1 ≠ F64.value (F64.mul 1 0x3FE0000000000000) ∧
      (F64.value (F64.mul 1 0x3FE0000000000000) * 2 ^ 1074 - F64.value 1 * F64.value 0x3FE0000000000000).natAbs =
        (F64.value 1 * 2 ^ 1074 - F64.value 1 * F64.value 0x3FE0000000000000).natAbs) := by decide +kernel

/-- The infinities and NaN beside the finite operands, a zero sum, an infinity times a zero. -/
theorem test_witness_special_operands :
    (F64.isInf 0x7FF0000000000000 = true ∧ F64.isInf 0xFFF0000000000000 = true ∧ F64.isNaN 0x7FF0000000000001 = true) ∧
    (F64.value 0 + F64.value 0x8000000000000000 = 0 ∧ F64.add 0 0x8000000000000000 = F64.zero) ∧
    F64.value 0x7FF0000000000000 * F64.value 0x8000000000000000 = 0 := by decide +kernel

theorem test_witness_SlicerTakesTheNearestPoint :
    F64.isFinite F64.zero = true ∧ F64.isFinite (F64.neg F64.one) = true ∧
      slice F64.zero (F64.neg F64.one) = [true, false] := by decide

/-- A poisoned position (2 ⊗ inf is not finite) and one that is not. -/
theorem test_witness_TdecHasItsClosedForm :
    ((soft1 0x7FF0000000000000 0 0).csr.ilvValid = true ∧ (soft1 0x7FF0000000000000 0 0).interleaverKept ∧
      (soft1 0x7FF0000000000000 0 0).srcLen = 3 * (soft1 0x7FF0000000000000 0 0).frameN) ∧
    poisoned (soft1 0x7FF0000000000000 0 0) 0 ∧ F64.gt (refC1 (soft1 1 0 0) 0) F64.zero = true :=
  ⟨by decide +kernel, .inl (by decide +kernel), by decide +kernel⟩

theorem test_witness_TdecUndoesTencOverAProxy :
    ∀ pm x : Bool, (soft1 (refProxy pm x) (refProxy pm x) (refProxy pm x)).interleaverKept ∧
      (soft1 (refProxy pm x) (refProxy pm x) (refProxy pm x)).src64 0 = refProxy pm x ∧
      (soft1 (refProxy pm x) (refProxy pm x) (refProxy pm x)).src64 1 = refProxy pm x ∧
      (soft1 (refProxy pm x) (refProxy pm x) (refProxy pm x)).src64 2 = refProxy pm x := by decide +kernel

/-- A frame of one 1 bit, and TDEC's state with the image of its encoding under PROXYPM. -/
theorem test_witness_TdecUndoesTencOverAProxy_of_tenc :
    (frameLegal (one (turbo 1 3 1 0 1 true) 1) ∧ constraintOk (one (turbo 1 3 1 0 1 true) 1) ∧
      tapsOk (one (turbo 1 3 1 0 1 true) 1) ∧ binarySrc (one (turbo 1 3 1 0 1 true) 1) 1) ∧
    (soft1 F64.one F64.one F64.one).csr.frameLen = (one (turbo 1 3 1 0 1 true) 1).csr.frameLen ∧
    (soft1 F64.one F64.one F64.one).ilvEntry 0 = (one (turbo 1 3 1 0 1 true) 1).ilvEntry 0 ∧
    (soft1 F64.one F64.one F64.one).srcLen = 3 * (one (turbo 1 3 1 0 1 true) 1).frameN ∧
    ∀ m, m < 3 → (soft1 F64.one F64.one F64.one).src64 m =
      refProxy true (decide ((after .tenc (one (turbo 1 3 1 0 1 true) 1)).dst8 m = 1)) := by decide +kernel

/-- One bit over the carrier `1.0`, and its sample. -/
def askOne (x : Byte) : State := blk (ask 1 1) (fill .acar (f64Bytes [F64.one]) ++ fill .src [x])
def askSample (v : F64) : State := blk (ask 1 1) (fill .acar (f64Bytes [F64.one]) ++ fill .src (f64Bytes [v]))

theorem test_witness_AdemUndoesAmodAboveTheThreshold :
    (spbOk (askOne 1) ∧ 8 * (askOne 1).srcLen * (askOne 1).spb ≤ 0x100000 ∧ binarySrc (askOne 1) 1 ∧
      F64.isFinite ((askOne 1).f64At .acar 0) = true) ∧
    ((askSample F64.one).srcLen = (askOne 1).srcLen * (askOne 1).spb ∧
      (askSample F64.one).f64At .acar 0 = (askOne 1).f64At .acar 0) ∧
    exec .amod (askOne 1) = .next (after .amod (askOne 1)) ∧
    (askSample F64.one).src64 0 = (after .amod (askOne 1)).f64At .dst 0 :=
  ⟨by decide +kernel, by decide +kernel, rfl, by decide +kernel⟩

/-- An empty payload under a zero header: its frame is 48 zero cells. -/
def empty : State := blk { Csr.reset with frHeader := 0 } []

theorem test_witness_FparseUndoesFbuild :
    empty.srcLen / 8 ≤ 65535 ∧ (frame48 none).csr.crcParams = empty.csr.crcParams ∧
      (frame48 none).csr.frHeader = empty.csr.frHeader ∧ (frame48 none).srcLen = empty.srcLen + 48 ∧
      exec .fbuild empty = .next (after .fbuild empty) ∧
      ∀ i, i < 48 → (frame48 none).src8 i = (after .fbuild empty).dst8 i :=
  ⟨by decide, by decide, rfl, by decide, rfl, by decide +kernel⟩

/-- Flips at the ends of the header, of the length and of the CRC. -/
theorem test_witness_FparseDetectsASingleFlippedBit :
    empty.csr.crcPoly ≠ 0 ∧ ∀ b ∈ [0, 15, 16, 31, 32, 47], b < (frame48 (some b)).srcLen ∧
      ∀ i, i < 48 → (frame48 (some b)).src8 i =
        if i = b then (after .fbuild empty).dst8 i ^^^ 1 else (after .fbuild empty).dst8 i :=
  ⟨by decide, by decide +kernel⟩

/-- The payload byte 0x01 under CRC_POLY = 0 and a zero header; its frame has three 1 cells at most: bit 31 (the length) and
the last payload bit, for a zero CRC. -/
def onePoly0 : State := blk { Csr.reset with frHeader := 0, crcPoly := 0, srcLen := 8 } (fill .src [0, 0, 0, 0, 0, 0, 0, 1])
def framePoly0 (hot : Nat) : State :=
  blk { Csr.reset with frHeader := 0, crcPoly := 0, srcLen := 56 }
    (fill .src ((List.range 56).map (fun i => (if i = 31 ∨ i = 39 then 1 else 0) ^^^ if i = hot then 1 else 0)))

/-- CRC_POLY = 0: flips that raise the length (bit 30) and lower it (bit 31), and at the ends of the payload and the CRC. -/
theorem test_witness_FparseDetectsASingleFlippedBit_poly_zero :
    onePoly0.csr.crcPoly = 0 ∧ binarySrc onePoly0 8 ∧
    (∀ b ∈ [0, 15, 16, 30, 31, 32, 39, 40, 55], (framePoly0 b).srcLen = onePoly0.srcLen + 48 ∧ b < (framePoly0 b).srcLen ∧
      ∀ i, i < 56 → (framePoly0 b).src8 i =
        if i = b then (after .fbuild onePoly0).dst8 i ^^^ 1 else (after .fbuild onePoly0).dst8 i) ∧
    onePoly0.srcLen / 8 < (refField (refPacked (framePoly0 30)) 2).toNat ∧
    (refField (refPacked (framePoly0 31)) 2).toNat < onePoly0.srcLen / 8 :=
  ⟨by decide, by decide +kernel, by decide +kernel, by decide +kernel, by decide +kernel⟩

/-- For the statements `CommandsWriteOnlyTheirOutput` and `CommandsKeepTheOtherRegisters`. -/
theorem test_witness_CommandsWriteOnlyTheirOutput : ∀ i : Instr, ∃ t, exec i State.reset = .next t := fun i => by
  cases i <;> exact ⟨_, rfl⟩

/-- A state with written bytes and a RAM write as its next event. -/
def written : State := { one (turbo 1 3 1 0 1 true) 1 with events := [.hostWrite 0x5FFFFC 0xFFFFFFFF] }

theorem test_witness_StepKeepsMemoryForm :
    written.memoryKept ∧ step written = .next (stepped written) ∧ (stepped written).ram ≠ written.ram :=
  ⟨by decide +kernel, rfl, by decide +kernel⟩

theorem test_witness_StepKeepsIlvValidMeaning :
    written.csr.ilvValid = true ∧ written.interleaverKept ∧ step written = .next (stepped written) :=
  ⟨rfl, by decide +kernel, rfl⟩

theorem test_witness_StepKeepsReportsConsistent :
    (busy 0x00010000 [.sequencer]).csr.reportsKept ∧
      step (busy 0x00010000 [.sequencer]) = .next (stepped (busy 0x00010000 [.sequencer])) := ⟨by decide, rfl⟩

theorem test_witness_SoftResetResetsTheRegisters :
    (0xFFFFFFFF : Word).getLsbD 1 = true ∧ (evs Csr.reset [.hostWrite 0x008 0xFFFFFFFF]).csr.busy = false ∧
      (busy 0x02 [.hostWrite 0x008 0x00000003]).events = .hostWrite 0x008 0x00000003 :: [] := by decide

theorem test_witness_PowerOnResetForgetsEverything : (busy 0x02 [.powerOn]).events = .powerOn :: [] := rfl

theorem test_witness_CtrlWriteSetsIrqEnable :
    (0x00000001 : Word).getLsbD 1 = false ∧ (0xFFFFFFFC : Word).getLsbD 1 = false ∧
      (busy 0x02 [.hostWrite 0x008 0x00000001]).events = .hostWrite 0x008 0x00000001 :: [] := by decide

theorem test_witness_StatusWriteClearsWrittenOnes :
    (busy 0x02 [.hostWrite 0x00C 0x0000001E]).events = .hostWrite 0x00C 0x0000001E :: [] := rfl

theorem test_witness_ConfigurationReadsBackItsFields :
    (evs Csr.reset [.hostWrite 0x060 0xFFFFFFFF, .hostRead 0x060]).csr.busy = false ∧
      (evs Csr.reset [.hostWrite 0x060 0xFFFFFFFF, .hostRead 0x060]).events
        = .hostWrite 0x060 0xFFFFFFFF :: .hostRead 0x060 :: [] := by decide

/-- The first and the last register, and a read-only one while BUSY. -/
theorem test_witness_RegistersReadTheirFields :
    (evs Csr.reset [.hostRead 0x000]).events = .hostRead 0x000 :: [] ∧ (0x068 : Addr).toNat % 4 = 0 ∧
      (0x068 : Addr).toNat ≤ 0x068 ∧ (busy 0x02 [.hostWrite 0x068 0xFFFFFFFF]).events = .hostWrite 0x068 0xFFFFFFFF :: [] ∧
      (0x068 : Addr).toNat ∈ [0x000, 0x004, 0x014, 0x018, 0x020, 0x030, 0x034, 0x04C, 0x068] := by decide

/-- 10_state.md R37 and R41: STATUS with BUSY, ACC_ERR and an ERRCODE, and ACC_ADDR of a misaligned write. -/
theorem test_register_words :
    (Csr.readReg .status { Csr.reset with busy := true, accErr := true, errcode := 0x14 }) = 0x00001411 ∧
      (Csr.readReg .accAddr { Csr.reset with accAddr := 0x100001, accCause := 1, accWr := true }) = 0xA0100001 := by decide

/-- Each cause at the edges of its range, and legal accesses beside them. -/
theorem test_witness_IllegalAccessesOnlyNoteThemselves :
    (∀ n ∈ ([0x000001, 0x06B, 0x7FFFFF] : List Nat), refCause State.reset true (BitVec.ofNat 23 n) = some 1) ∧
    (∀ n ∈ ([0x06C, 0x00FFFC, 0x014000, 0x600000, 0x7FFFFC] : List Nat),
      refCause State.reset false (BitVec.ofNat 23 n) = some 0 ∧ refCause (busy 0 []) true (BitVec.ofNat 23 n) = some 0) ∧
    (∀ n ∈ ([0x010000, 0x5FFFFC] : List Nat),
      refCause (busy 0 []) false (BitVec.ofNat 23 n) = some 2 ∧ refCause (busy 0 []) true (BitVec.ofNat 23 n) = some 2 ∧
        refCause State.reset true (BitVec.ofNat 23 n) = none) ∧
    (∀ n ∈ ([0x01C, 0x064] : List Nat),
      refCause (busy 0 []) true (BitVec.ofNat 23 n) = some 2 ∧ refCause (busy 0 []) false (BitVec.ofNat 23 n) = none) ∧
    refCause (busy 0 []) true 0x068 = none := by decide +kernel

theorem test_witness_RamAccessesMoveFourBytes :
    ∀ n ∈ ([0x010000, 0x013FFC, 0x020000, 0x5FFFFC] : List Nat),
      (BitVec.ofNat 23 n).toNat % 4 = 0 ∧ refRam (BitVec.ofNat 23 n).toNat := by decide +kernel

/-- Every kind of event that lowers or raises IRQ. -/
theorem test_witness_InterruptFollowsDone :
    (evs Csr.reset [.hostWrite 0x010 0]).csr.busy = false ∧ (0x00000002 : Word).getLsbD 1 = true ∧
      step (evs { Csr.reset with doneFlag := true } [.hostWrite 0x008 0x00000001])
        = .next (stepped (evs { Csr.reset with doneFlag := true } [.hostWrite 0x008 0x00000001])) ∧
      (stepped (evs { Csr.reset with doneFlag := true } [.hostWrite 0x008 0x00000001])).csr.irq = true :=
  ⟨rfl, rfl, rfl, rfl⟩

theorem test_witness_BusyBlockIsFrozen :
    step (busy 0x02 [.hostWrite 0x01C 8]) = .next (stepped (busy 0x02 [.hostWrite 0x01C 8])) ∧
      (busy 0x02 [.hostWrite 0x01C 8]).csr.busy = true ∧ (stepped (busy 0x02 [.hostWrite 0x01C 8])).csr.busy = true :=
  ⟨rfl, rfl, rfl⟩

/-- A step that raises each flag. -/
theorem test_witness_FlagsAreSetOnlyAsListed :
    (stepped (busy 0x00 [.sequencer])).csr.doneFlag = true ∧ (stepped (busy 0x04 [.sequencer])).csr.err = true ∧
      (stepped (evs Csr.reset [.hostWrite 0x010 0x04])).csr.busy = true ∧
      (stepped (evs Csr.reset [.hostWrite 0x010 0x04])).csr.lastCmd = 0x04 ∧
      (stepped (busy 0x00 [.hostWrite 0x010 0x04])).csr.cmdOvr = true ∧
      (stepped (evs Csr.reset [.hostRead 0x06C])).csr.accErr = true ∧
      (stepped { table8 1 [0] Csr.reset with
        csr := { turbo 1 3 1 0 0 false with busy := true, lastCmd := 0x01 } }).csr.ilvValid = true :=
  ⟨by decide, by decide, by decide, by decide, by decide, by decide, by decide +kernel⟩

/-- Two states that differ in DST only. -/
theorem test_witness_NoCommandReadsDst :
    (∀ a, (a < 0x200000 ∨ 0x300000 ≤ a) → (blk Csr.reset [(0x200000, 1)]).readByte a = (blk Csr.reset []).readByte a) ∧
      (blk Csr.reset [(0x200000, 1)]).ram ≠ (blk Csr.reset []).ram ∧ (blk Csr.reset []).interleaverKept := by
  refine ⟨fun a h => ?_, by decide, by decide⟩
  have hb : (a == 2097152) = false := by
    have : a ≠ 2097152 := by omega
    simpa using this
  simp [State.readByte, State.epochOf, Memory.lookup, blk, List.lookup, hb]

end Sys2Proof.Tests
end

section
/-! SUPPORT. Binary64 patterns read as numbers: a pattern is its sign bit and its magnitude (the low 63 bits), the
magnitude orders zeros, subnormals, normals, the infinity and the NaNs, and it determines the value. -/

namespace Sys2Proof

/-- The low 63 bits of a pattern: exponent field and fraction together, read as one number. -/
def F64.mag (x : F64) : Nat := x.toNat % 2 ^ 63

theorem F64.expField_eq_mag_div (x : F64) : F64.expField x = F64.mag x / 2 ^ 52 := by
  simp only [F64.expField, F64.mag, BitVec.extractLsb'_toNat, Nat.shiftRight_eq_div_pow]
  omega

theorem F64.fracField_eq_mag_mod (x : F64) : F64.fracField x = F64.mag x % 2 ^ 52 := by
  simp only [F64.fracField, F64.mag, BitVec.extractLsb'_toNat, Nat.shiftRight_eq_div_pow]
  omega

theorem F64.mag_lt (x : F64) : F64.mag x < 2 ^ 63 := Nat.mod_lt _ (by decide)

theorem F64.isFinite_iff_mag (x : F64) : F64.isFinite x = true ↔ F64.mag x < F64.infMag := by
  have := F64.mag_lt x
  simp only [F64.isFinite, F64.infMag, F64.expField_eq_mag_div, decide_eq_true_eq]
  omega

theorem F64.isInf_iff_mag (x : F64) : F64.isInf x = true ↔ F64.mag x = F64.infMag := by
  simp only [F64.isInf, F64.infMag, F64.expField_eq_mag_div, F64.fracField_eq_mag_mod, Bool.and_eq_true,
    decide_eq_true_eq]
  omega

theorem F64.isNaN_iff_mag (x : F64) : F64.isNaN x = true ↔ F64.infMag < F64.mag x := by
  have := F64.mag_lt x
  simp only [F64.isNaN, F64.infMag, F64.expField_eq_mag_div, F64.fracField_eq_mag_mod, Bool.and_eq_true,
    decide_eq_true_eq]
  omega

theorem F64.isNaN_eq_false_iff_mag (x : F64) : F64.isNaN x = false ↔ F64.mag x ≤ F64.infMag := by
  rw [← Bool.not_eq_true, F64.isNaN_iff_mag, Nat.not_lt]

/-- A value that is no NaN is finite or an infinity. -/
theorem F64.isFinite_eq_not_isInf {x : F64} (h : F64.isNaN x = false) : F64.isFinite x = !F64.isInf x := by
  have hmag := (F64.isNaN_eq_false_iff_mag x).mp h
  rw [Bool.eq_iff_iff, Bool.not_eq_true', ← Bool.not_eq_true, F64.isFinite_iff_mag, F64.isInf_iff_mag]
  omega

theorem F64.isNaN_of_isFinite {x : F64} (h : F64.isFinite x = true) : F64.isNaN x = false := by
  rw [F64.isFinite_iff_mag] at h
  exact (F64.isNaN_eq_false_iff_mag x).mpr h.le

theorem F64.isInf_of_isFinite {x : F64} (h : F64.isFinite x = true) : F64.isInf x = false := by
  simpa [F64.isFinite_eq_not_isInf (F64.isNaN_of_isFinite h)] using h

theorem F64.isNaN_of_isInf {x : F64} (h : F64.isInf x = true) : F64.isNaN x = false := by
  rw [F64.isInf_iff_mag] at h
  exact (F64.isNaN_eq_false_iff_mag x).mpr h.le

/-! `withSign` puts a pattern together from its sign and its magnitude. -/

theorem F64.toNat_withSign (neg : Bool) {m : Nat} (h : m < 2 ^ 63) :
    (F64.withSign neg m).toNat = (if neg then 2 ^ 63 else 0) + m := by
  cases neg <;> simp only [F64.withSign, BitVec.toNat_ofNat, Bool.false_eq_true, reduceIte] <;> omega

theorem F64.mag_withSign (neg : Bool) {m : Nat} (h : m < 2 ^ 63) : F64.mag (F64.withSign neg m) = m := by
  rw [F64.mag, F64.toNat_withSign neg h]
  cases neg <;> simp only [Bool.false_eq_true, reduceIte] <;> omega

theorem F64.signBit_withSign (neg : Bool) {m : Nat} (h : m < 2 ^ 63) : F64.signBit (F64.withSign neg m) = neg := by
  have hn : (2 ^ 63 ≤ (F64.withSign neg m).toNat) ↔ neg = true := by
    rw [F64.toNat_withSign neg h]
    cases neg <;> simp only [Bool.false_eq_true, reduceIte, iff_true, iff_false] <;> omega
  rw [F64.signBit, ← BitVec.msb_eq_getLsbD_last (F64.withSign neg m), BitVec.msb_eq_decide, Bool.eq_iff_iff,
    decide_eq_true_eq]
  exact hn

/-- The last bit of a pattern is the parity of its magnitude. -/
theorem F64.getLsbD_zero_eq_false {x : F64} (h : F64.mag x % 2 = 0) : x.getLsbD 0 = false := by
  rw [F64.mag] at h
  simp only [BitVec.getLsbD, Nat.testBit_zero, decide_eq_false_iff_not]
  omega

/-! The magnitude of a value. -/

/-- A magnitude written as `t` whole binades above a significand `q` means `q`·2^`t` units. The significand may be 2^53:
the carry moves to the next exponent. -/
theorem F64.units_of_mag {x : F64} {t q : Nat} (hx : F64.mag x = t * 2 ^ 52 + q) (hq : q ≤ 2 ^ 53)
    (hnormal : t = 0 ∨ 2 ^ 52 ≤ q) : F64.units x = q * 2 ^ t := by
  rw [F64.units, F64.expField_eq_mag_div, F64.fracField_eq_mag_mod, hx, Nat.shiftLeft_eq]
  obtain hlow | hmid | htop : q < 2 ^ 52 ∨ (2 ^ 52 ≤ q ∧ q < 2 ^ 53) ∨ q = 2 ^ 53 := by omega
  · obtain rfl : t = 0 := by omega
    rw [if_pos (by omega)]
    omega
  · rw [if_neg (by omega), show (t * 2 ^ 52 + q) / 2 ^ 52 - 1 = t by omega,
      show 0x10000000000000 + (t * 2 ^ 52 + q) % 2 ^ 52 = q by omega]
  · rw [if_neg (by omega), show (t * 2 ^ 52 + q) / 2 ^ 52 - 1 = t + 1 by omega,
      show 0x10000000000000 + (t * 2 ^ 52 + q) % 2 ^ 52 = 2 ^ 52 by omega, htop]
    ring

/-- Every pattern is `t` binades above a significand `q` of at most 53 bits. -/
theorem F64.exists_significand (x : F64) : ∃ t q,
    F64.mag x = t * 2 ^ 52 + q ∧ q < 2 ^ 53 ∧ (t = 0 ∨ 2 ^ 52 ≤ q) ∧ F64.units x = q * 2 ^ t := by
  obtain hlow | hhigh := Nat.lt_or_ge (F64.mag x) (2 ^ 52)
  · have hx : F64.mag x = 0 * 2 ^ 52 + F64.mag x := by omega
    exact ⟨0, F64.mag x, hx, by omega, .inl rfl, F64.units_of_mag hx (by omega) (.inl rfl)⟩
  · have hx : F64.mag x = (F64.mag x / 2 ^ 52 - 1) * 2 ^ 52 + (2 ^ 52 + F64.mag x % 2 ^ 52) := by omega
    exact ⟨_, _, hx, by omega, .inr (by omega), F64.units_of_mag hx (by omega) (.inr (by omega))⟩

/-- An integer from its sign and its magnitude. -/
def F64.signed (neg : Bool) (m : Nat) : Int := if neg then -(m : Int) else m

theorem F64.value_eq_signed (x : F64) : F64.value x = F64.signed (F64.signBit x) (F64.units x) := rfl

theorem F64.signed_mul (s t : Bool) (m n : Nat) : F64.signed s m * F64.signed t n = F64.signed (s != t) (m * n) := by
  cases s <;> cases t <;> simp [F64.signed]

theorem F64.natAbs_signed (s : Bool) (m : Nat) : (F64.signed s m).natAbs = m := by
  cases s <;> simp [F64.signed]

/-- A sign that is that of a nonzero `v` and the magnitude of `v` give `v` back. -/
theorem F64.signed_natAbs {s : Bool} {v : Int} (h : v ≠ 0 → s = decide (v < 0)) : F64.signed s v.natAbs = v := by
  obtain rfl | hv := eq_or_ne v 0
  · simp [F64.signed]
  · rw [h hv]
    simp only [F64.signed, decide_eq_true_eq]
    omega

theorem F64.units_eq_zero_iff (x : F64) : F64.units x = 0 ↔ F64.value x = 0 := by
  rw [F64.value_eq_signed, ← Int.natAbs_eq_zero, F64.natAbs_signed]

/-- The formula for the magnitude of a value gives an infinity 2^2098 units. -/
theorem F64.units_of_isInf {x : F64} (h : F64.isInf x = true) : F64.units x = 2 ^ 2098 := by
  rw [F64.isInf_iff_mag] at h
  rw [F64.units_of_mag (t := 2046) (q := 2 ^ 52) h (by decide) (.inr le_rfl), ← pow_add]

/-- Every finite magnitude is below 2^2098 units. -/
theorem F64.units_lt_of_isFinite {x : F64} (h : F64.isFinite x = true) : F64.units x < 2 ^ 2098 := by
  obtain ⟨t, q, hmag, hq, hnormal, hunits⟩ := F64.exists_significand x
  rw [F64.isFinite_iff_mag, hmag, F64.infMag] at h
  have hbinade : F64.units x < 2 ^ (53 + t) := by
    rw [hunits, pow_add]
    exact Nat.mul_lt_mul_of_pos_right hq (by positivity)
  have ht : 53 + t ≤ 2098 := by omega
  exact hbinade.trans_le (pow_le_pow_right₀ one_le_two ht)

end Sys2Proof
end

section
/-! SUPPORT. Rounding: `roundShift` gives the nearest multiple of the last place, `round` packs it into a pattern. -/

namespace Sys2Proof

/-- A rounded quotient is off by at most half a divisor, and by exactly half only if it is even. -/
theorem F64.roundShift_half (m d : Nat) :
    2 * m ≤ (2 * F64.roundShift m d + 1) * 2 ^ d ∧ 2 * F64.roundShift m d * 2 ^ d ≤ 2 * m + 2 ^ d ∧
    (2 * m = (2 * F64.roundShift m d + 1) * 2 ^ d ∨ 2 * F64.roundShift m d * 2 ^ d = 2 * m + 2 ^ d →
      F64.roundShift m d % 2 = 0) := by
  simp only [F64.roundShift, Nat.shiftRight_eq_div_pow, Nat.one_shiftLeft]
  have hD : 0 < 2 ^ d := by positivity
  have hdiv := Nat.div_add_mod m (2 ^ d)
  have hlt := Nat.mod_lt m hD
  generalize 2 ^ d = D at *
  generalize m / D = q at *
  generalize m % D = r at *
  have hmul : (2 * q + 1) * D = 2 * (D * q) + D ∧ (2 * (q + 1) + 1) * D = 2 * (D * q) + 3 * D ∧
      2 * q * D = 2 * (D * q) ∧ 2 * (q + 1) * D = 2 * (D * q) + 2 * D := by
    refine ⟨?_, ?_, ?_, ?_⟩ <;> ring
  obtain ⟨h1, h2, h3, h4⟩ := hmul
  split
  · rw [h2, h4]; omega
  · rw [h1, h3]; omega

/-- A quotient rounds to less than an even `k` exactly below the midpoint under `k`, since the tie goes to `k`. -/
theorem F64.roundShift_lt_iff (m d : Nat) {k : Nat} (hk : k % 2 = 0) :
    F64.roundShift m d < k ↔ 2 * m + 2 ^ d < 2 * k * 2 ^ d := by
  obtain ⟨hlo, hhi, htie⟩ := F64.roundShift_half m d
  generalize F64.roundShift m d = q at *
  have hD : 0 < 2 ^ d := by positivity
  generalize 2 ^ d = D at *
  have hodd : (2 * q + 2) * D = (2 * q + 1) * D + D := by ring
  constructor
  · intro hq
    have hle : (2 * q + 2) * D ≤ 2 * k * D := Nat.mul_le_mul_right _ (by omega)
    have hne : 2 * m + D ≠ 2 * k * D := by
      intro heq
      have hqk : 2 * q + 2 = 2 * k := Nat.eq_of_mul_eq_mul_right hD (by omega)
      have hm : 2 * m = (2 * q + 1) * D := by rw [← hqk] at heq; omega
      have hq_even := htie (.inl hm)
      omega
    omega
  · intro h
    by_contra hq
    have hle : 2 * k * D ≤ 2 * q * D := Nat.mul_le_mul_right _ (by omega)
    omega

/-- The last place leaves a significand of at most 53 bits, and of exactly 53 bits where it is not the unit itself. -/
theorem F64.lastPlace_bounds (m sh : Nat) :
    m < 2 ^ 53 * 2 ^ (sh + F64.lastPlace m sh) ∧
    (F64.lastPlace m sh = 0 ∨ 2 ^ 52 * 2 ^ (sh + F64.lastPlace m sh) ≤ m) := by
  have hupper : m < 2 ^ (m.log2 + 1) := Nat.lt_log2_self
  rw [← pow_add, ← pow_add]
  constructor
  · refine hupper.trans_le (pow_le_pow_right₀ one_le_two ?_)
    rw [F64.lastPlace]
    omega
  · obtain hzero | hpos := Nat.eq_zero_or_pos (F64.lastPlace m sh)
    · exact .inl hzero
    · rw [F64.lastPlace] at hpos ⊢
      have hm : m ≠ 0 := by
        rintro rfl
        simp at hpos
      have hexp : 52 + (sh + (m.log2 - (sh + 52))) = m.log2 := by omega
      rw [hexp]
      exact .inr (Nat.log2_self_le hm)

/-- The significand `round` packs. -/
def F64.significand (m sh : Nat) : Nat := F64.roundShift m (sh + F64.lastPlace m sh)

/-- The magnitude `round` packs, before the cut at infinity. -/
def F64.roundMag (m sh : Nat) : Nat := F64.lastPlace m sh * 2 ^ 52 + F64.significand m sh

theorem F64.round_eq_withSign_min (neg : Bool) (m sh : Nat) :
    F64.round neg m sh = F64.withSign neg (min F64.infMag (F64.roundMag m sh)) := rfl

theorem F64.min_infMag_lt (k : Nat) : min F64.infMag k < 2 ^ 63 := (Nat.min_le_left _ _).trans_lt (by decide)

theorem F64.signBit_round (neg : Bool) (m sh : Nat) : F64.signBit (F64.round neg m sh) = neg :=
  F64.signBit_withSign neg (F64.min_infMag_lt _)

theorem F64.mag_round (neg : Bool) (m sh : Nat) :
    F64.mag (F64.round neg m sh) = min F64.infMag (F64.roundMag m sh) :=
  F64.mag_withSign neg (F64.min_infMag_lt _)

theorem F64.isNaN_round (neg : Bool) (m sh : Nat) : F64.isNaN (F64.round neg m sh) = false := by
  rw [F64.isNaN_eq_false_iff_mag, F64.mag_round]
  exact Nat.min_le_left _ _

theorem F64.isFinite_round_iff_roundMag (neg : Bool) (m sh : Nat) :
    F64.isFinite (F64.round neg m sh) = true ↔ F64.roundMag m sh < F64.infMag := by
  rw [F64.isFinite_iff_mag, F64.mag_round]
  omega

/-- The packed significand has at most 53 bits or is the carry 2^53; it is normal where the last place is not the unit. -/
theorem F64.significand_bounds (m sh : Nat) :
    F64.significand m sh ≤ 2 ^ 53 ∧ (F64.lastPlace m sh = 0 ∨ 2 ^ 52 ≤ F64.significand m sh) := by
  obtain ⟨hupper, hlower⟩ := F64.lastPlace_bounds m sh
  rw [F64.significand]
  have hge := F64.roundShift_lt_iff m (sh + F64.lastPlace m sh) (k := 2 ^ 52) (by decide)
  obtain ⟨hlo, hhi, -⟩ := F64.roundShift_half m (sh + F64.lastPlace m sh)
  generalize F64.roundShift m (sh + F64.lastPlace m sh) = q at *
  have hD : 0 < 2 ^ (sh + F64.lastPlace m sh) := by positivity
  generalize 2 ^ (sh + F64.lastPlace m sh) = D at *
  constructor
  · by_contra hq
    have hle : 2 * (2 ^ 53 + 1) * D ≤ 2 * q * D := Nat.mul_le_mul_right _ (by omega)
    omega
  · refine hlower.imp_right fun h => ?_
    by_contra hq
    omega

theorem F64.units_round {neg : Bool} {m sh : Nat} (h : F64.isFinite (F64.round neg m sh) = true) :
    F64.units (F64.round neg m sh) = F64.significand m sh * 2 ^ F64.lastPlace m sh := by
  rw [F64.isFinite_round_iff_roundMag] at h
  obtain ⟨hle, hnormal⟩ := F64.significand_bounds m sh
  exact F64.units_of_mag ((F64.mag_round neg m sh).trans (Nat.min_eq_right h.le)) hle hnormal

/-- Rounding stays finite exactly below the largest finite value plus half its last place. -/
theorem F64.isFinite_round_iff (neg : Bool) (m sh : Nat) :
    F64.isFinite (F64.round neg m sh) = true ↔ m < (2 ^ 54 - 1) * 2 ^ 2044 * 2 ^ sh := by
  rw [F64.isFinite_round_iff_roundMag, F64.roundMag, F64.infMag]
  obtain ⟨hupper, hlower⟩ := F64.lastPlace_bounds m sh
  obtain ⟨hle, hnormal⟩ := F64.significand_bounds m sh
  have htop := F64.roundShift_lt_iff m (sh + F64.lastPlace m sh) (k := 2 ^ 53) (by decide)
  rw [← F64.significand] at htop
  generalize F64.significand m sh = q at *
  generalize F64.lastPlace m sh = t at *
  have hbound : (2 ^ 54 - 1) * 2 ^ 2044 * 2 ^ sh = (2 ^ 54 - 1) * 2 ^ (sh + 2044) := by
    rw [pow_add, mul_assoc, mul_comm (2 ^ 2044)]
  rw [hbound]
  obtain hlow | rfl | hhigh := Nat.lt_trichotomy t 2045
  · have hmono : 2 ^ (sh + t) ≤ 2 ^ (sh + 2044) := pow_le_pow_right₀ one_le_two (by omega)
    generalize 2 ^ (sh + 2044) = E at *
    omega
  · have hdouble : 2 ^ (sh + 2045) = 2 * 2 ^ (sh + 2044) := by rw [← pow_succ']
    rw [hdouble] at htop
    generalize 2 ^ (sh + 2044) = E at *
    omega
  · have hmono : 2 ^ (sh + 2046) ≤ 2 ^ (sh + t) := pow_le_pow_right₀ one_le_two (by omega)
    have hquad : 2 ^ (sh + 2046) = 2 ^ (sh + 2044) * 2 ^ 2 := pow_add 2 (sh + 2044) 2
    generalize 2 ^ (sh + 2044) = E at *
    omega

/-- Rounding nothing gives the zero of the sign. -/
theorem F64.round_zero (neg : Bool) (sh : Nat) : F64.round neg 0 sh = F64.withSign neg 0 := by
  have hlast : F64.lastPlace 0 sh = 0 := by simp [F64.lastPlace]
  have hsig : F64.significand 0 sh = 0 := by simp [F64.significand, F64.roundShift, Nat.one_shiftLeft]
  rw [F64.round_eq_withSign_min, F64.roundMag, hlast, hsig, Nat.zero_mul, Nat.add_zero, Nat.min_zero]

/-! Nearest. Among the multiples of the last place the rounded one is nearest. A representable value that is no such
multiple has a smaller exponent, so the least normal significand of the last place stands between it and the exact one. -/

/-- `z` is no nearer to `v` than `w` is, and a `z` other than `w` is as near only if `tie`. -/
def F64.NearestTo (v w z : Int) (tie : Prop) : Prop :=
  (w - v).natAbs ≤ (z - v).natAbs ∧ ((w - v).natAbs = (z - v).natAbs → z ≠ w → tie)

theorem F64.NearestTo.imp {v w z : Int} {tie tie' : Prop} (h : F64.NearestTo v w z tie) (himp : tie → tie') :
    F64.NearestTo v w z tie' := by
  obtain ⟨hle, htie⟩ := h
  exact ⟨hle, fun heq hne => himp (htie heq hne)⟩

theorem F64.NearestTo.neg {v w z : Int} {tie : Prop} (h : F64.NearestTo v w z tie) : F64.NearestTo (-v) (-w) (-z) tie := by
  have hflip (y : Int) : (-y - -v).natAbs = (y - v).natAbs := by omega
  obtain ⟨hle, htie⟩ := h
  exact ⟨by rwa [hflip, hflip], fun heq hne => htie (by rwa [hflip, hflip] at heq) fun hz => hne (by rw [hz])⟩

/-- No multiple of 2^`d` is nearer to `m` than the rounded one, and a tie goes to the even quotient. -/
theorem F64.roundShift_nearest (m d : Nat) (k : Int) :
    F64.NearestTo m (F64.roundShift m d * 2 ^ d) (k * 2 ^ d) (F64.roundShift m d % 2 = 0) := by
  obtain ⟨hlo, hhi, htie⟩ := F64.roundShift_half m d
  rw [F64.NearestTo]
  generalize F64.roundShift m d = q at *
  have hD : (0 : Int) < 2 ^ d := by positivity
  have hcast : ((2 ^ d : Nat) : Int) = 2 ^ d := by push_cast; rfl
  have hup : ((2 * q + 1) * 2 ^ d : Nat) = 2 * ((q : Int) * 2 ^ d) + 2 ^ d := by push_cast; ring
  have hdown : (2 * q * 2 ^ d : Nat) = 2 * ((q : Int) * 2 ^ d) := by push_cast; ring
  obtain hlt | rfl | hgt := lt_trichotomy k q
  · have hstep : (k + 1) * 2 ^ d ≤ (q : Int) * 2 ^ d := Int.mul_le_mul_of_nonneg_right (by omega) hD.le
    rw [add_mul, one_mul] at hstep
    generalize (2 : Int) ^ d = D at *
    omega
  · exact ⟨le_rfl, fun _ hne => absurd rfl hne⟩
  · have hstep : ((q : Int) + 1) * 2 ^ d ≤ k * 2 ^ d := Int.mul_le_mul_of_nonneg_right (by omega) hD.le
    rw [add_mul, one_mul] at hstep
    generalize (2 : Int) ^ d = D at *
    omega

/-- `z` is a multiple of 2^`t`, or too small for a normal significand of that last place. -/
def F64.OnGrid (t : Nat) (z : Int) : Prop := (∃ k : Int, z = k * 2 ^ t) ∨ z.natAbs < 2 ^ 52 * 2 ^ t

theorem F64.OnGrid.neg {t : Nat} {z : Int} (h : F64.OnGrid t z) : F64.OnGrid t (-z) := by
  obtain ⟨k, rfl⟩ | hsmall := h
  · exact .inl ⟨-k, by ring⟩
  · exact .inr (by rwa [Int.natAbs_neg])

theorem F64.value_onGrid (t : Nat) (x : F64) : F64.OnGrid t (F64.value x) := by
  have hunits : F64.OnGrid t (F64.units x) := by
    obtain ⟨e, q, -, hq, -, hunits⟩ := F64.exists_significand x
    rw [hunits]
    obtain hlt | hle := Nat.lt_or_ge e t
    · right
      calc q * 2 ^ e < 2 ^ 53 * 2 ^ e := Nat.mul_lt_mul_of_pos_right hq (by positivity)
        _ = 2 ^ 52 * 2 ^ (e + 1) := by ring
        _ ≤ 2 ^ 52 * 2 ^ t := Nat.mul_le_mul_left _ (pow_le_pow_right₀ one_le_two hlt)
    · obtain ⟨j, rfl⟩ := Nat.exists_eq_add_of_le hle
      exact .inl ⟨q * 2 ^ j, by push_cast; ring⟩
  rw [F64.value]
  split
  · exact hunits.neg
  · exact hunits

/-- No value on the grid of the last place is nearer to `m`/2^`sh` units than the packed significand, and a tie goes to
the even significand. -/
theorem F64.significand_nearest (m sh : Nat) {z : Int} (hz : F64.OnGrid (F64.lastPlace m sh) z) :
    F64.NearestTo m (F64.significand m sh * 2 ^ F64.lastPlace m sh * 2 ^ sh) (z * 2 ^ sh)
      (F64.significand m sh % 2 = 0) := by
  obtain ⟨-, hlower⟩ := F64.lastPlace_bounds m sh
  have hnear := F64.roundShift_nearest m (sh + F64.lastPlace m sh)
  rw [← F64.significand] at hnear
  generalize F64.significand m sh = q at *
  generalize F64.lastPlace m sh = t at *
  have hscale (k : Int) : k * 2 ^ t * 2 ^ sh = k * 2 ^ (sh + t) := by ring
  obtain ⟨k, rfl⟩ | hsmall := hz
  · rw [hscale, hscale]
    exact hnear k
  obtain rfl | hnormal := hlower
  · rw [pow_zero, mul_one]
    exact hnear z
  · have hz_lt : z < 2 ^ 52 * 2 ^ t := by zify at hsmall; exact (le_abs_self z).trans_lt hsmall
    have hleft : z * 2 ^ sh < 2 ^ 52 * 2 ^ t * 2 ^ sh := Int.mul_lt_mul_of_pos_right hz_lt (by positivity)
    obtain ⟨hle, -⟩ := hnear (2 ^ 52)
    rw [hscale] at hleft ⊢
    rw [F64.NearestTo]
    zify at hnormal
    generalize (2 : Int) ^ (sh + t) = D at *
    omega

/-- A finite rounded value is nearest to the exact one among the finite values, and on a tie its last bit is 0. -/
theorem F64.round_nearest {neg : Bool} {m sh : Nat} (h : F64.isFinite (F64.round neg m sh) = true) (c : F64) :
    F64.NearestTo (F64.signed neg m) (F64.value (F64.round neg m sh) * 2 ^ sh) (F64.value c * 2 ^ sh)
      ((F64.round neg m sh).getLsbD 0 = false) := by
  have heven (hq : F64.significand m sh % 2 = 0) : (F64.round neg m sh).getLsbD 0 = false := by
    have hmag := (F64.isFinite_round_iff_roundMag neg m sh).mp h
    apply F64.getLsbD_zero_eq_false
    rw [F64.mag_round, Nat.min_eq_right hmag.le, F64.roundMag]
    omega
  refine F64.NearestTo.imp ?_ heven
  have hc := F64.value_onGrid (F64.lastPlace m sh) c
  rw [F64.value_eq_signed (F64.round neg m sh), F64.signBit_round, F64.units_round h]
  cases neg with
  | false => simpa [F64.signed] using F64.significand_nearest m sh hc
  | true => simpa [F64.signed] using (F64.significand_nearest m sh hc.neg).neg

/-- `round_nearest` with a tie between values, as 00_scope.md R14 compares them, not between their scaled images. -/
theorem F64.round_nearest_value {neg : Bool} {m sh : Nat} (h : F64.isFinite (F64.round neg m sh) = true) (c : F64) :
    (F64.value (F64.round neg m sh) * 2 ^ sh - F64.signed neg m).natAbs
      ≤ (F64.value c * 2 ^ sh - F64.signed neg m).natAbs ∧
    ((F64.value (F64.round neg m sh) * 2 ^ sh - F64.signed neg m).natAbs
        = (F64.value c * 2 ^ sh - F64.signed neg m).natAbs →
      F64.value c ≠ F64.value (F64.round neg m sh) → (F64.round neg m sh).getLsbD 0 = false) := by
  obtain ⟨hle, htie⟩ := F64.round_nearest h c
  exact ⟨hle, fun heq hne => htie heq fun hz => hne (Int.eq_of_mul_eq_mul_right (by positivity) hz)⟩

end Sys2Proof
end

section
/-! 00_scope.md R14 settled: what `add`, `mul` and `lt` do for each kind of operand, then the three obligations. -/

namespace Sys2Proof

theorem F64.isNaN_nan : F64.isNaN F64.nan = true := by decide

/-! What `add` does. -/

theorem F64.add_of_isNaN {a b : F64} (h : F64.isNaN a = true ∨ F64.isNaN b = true) : F64.add a b = F64.nan := by
  rw [F64.add, if_pos (by simpa using h)]

theorem F64.add_of_isInf_left {a b : F64} (ha : F64.isInf a = true) (hb : F64.isNaN b = false) :
    F64.add a b = if F64.isInf b = true ∧ F64.signBit a ≠ F64.signBit b then F64.nan else a := by
  simp [F64.add, F64.isNaN_of_isInf ha, hb, ha]

theorem F64.add_of_isInf_right {a b : F64} (ha : F64.isFinite a = true) (hb : F64.isInf b = true) : F64.add a b = b := by
  simp [F64.add, F64.isNaN_of_isFinite ha, F64.isInf_of_isFinite ha, F64.isNaN_of_isInf hb, hb]

/-- The sign of a sum of finite values: that of the exact sum; an exact zero is negative only if both operands are. -/
def F64.sumSign (a b : F64) : Bool :=
  if F64.value a + F64.value b = 0 then F64.signBit a && F64.signBit b else decide (F64.value a + F64.value b < 0)

/-- A sum of finite values is the rounded exact sum, a zero one too. -/
theorem F64.add_of_isFinite {a b : F64} (ha : F64.isFinite a = true) (hb : F64.isFinite b = true) :
    F64.add a b = F64.round (F64.sumSign a b) (F64.value a + F64.value b).natAbs 0 := by
  simp only [F64.add, F64.sumSign, F64.isNaN_of_isFinite ha, F64.isNaN_of_isFinite hb, F64.isInf_of_isFinite ha,
    F64.isInf_of_isFinite hb, Bool.or_self, Bool.false_eq_true, if_false]
  split
  case isTrue hzero => rw [hzero, Int.natAbs_zero, F64.round_zero]
  case isFalse => rfl

/-! What `mul` does. -/

theorem F64.mul_of_isNaN {a b : F64} (h : F64.isNaN a = true ∨ F64.isNaN b = true) : F64.mul a b = F64.nan := by
  rw [F64.mul, if_pos (by simpa using h)]

theorem F64.mul_of_isInf {a b : F64} (ha : F64.isNaN a = false) (hb : F64.isNaN b = false)
    (hinf : F64.isInf a = true ∨ F64.isInf b = true) :
    F64.mul a b = if F64.value a * F64.value b = 0 then F64.nan
      else F64.withSign (F64.signBit a != F64.signBit b) F64.infMag := by
  simp only [F64.mul, ha, hb, Bool.or_self, Bool.false_eq_true, if_false, F64.units_eq_zero_iff, Int.mul_eq_zero]
  rw [if_pos (by simpa using hinf)]

/-- A product of finite values is the rounded exact product, a zero one too. -/
theorem F64.mul_of_isFinite {a b : F64} (ha : F64.isFinite a = true) (hb : F64.isFinite b = true) :
    F64.mul a b = F64.round (F64.signBit a != F64.signBit b) (F64.units a * F64.units b) 1074 := by
  simp only [F64.mul, F64.isNaN_of_isFinite ha, F64.isNaN_of_isFinite hb, F64.isInf_of_isFinite ha,
    F64.isInf_of_isFinite hb, Bool.or_self, Bool.false_eq_true, if_false]
  split
  case isTrue hzero => rw [hzero, F64.round_zero]
  case isFalse => rfl

/-- Settles O30: the special operands by the branches of `add`; for finite operands the rules of `round` at a whole number
of units. -/
theorem additionRoundsToNearestEven : Obligations.AdditionRoundsToNearestEven := by
  intro a b v r
  refine ⟨fun h => ?_, fun ha hb => ?_, F64.add_of_isInf_right, fun ha hb => ?_⟩
  · rw [show r = F64.nan from F64.add_of_isNaN h, F64.isNaN_nan]
  · have hr : r = _ := F64.add_of_isInf_left ha hb
    split
    case isTrue hopposite => rw [hr, if_pos hopposite, F64.isNaN_nan]
    case isFalse hsame => rw [hr, if_neg hsame]
  · have hr : r = F64.round (F64.sumSign a b) v.natAbs 0 := F64.add_of_isFinite ha hb
    have hsign : F64.signBit r = F64.sumSign a b := by rw [hr, F64.signBit_round]
    have hsum (hv : v ≠ 0) : F64.sumSign a b = decide (v < 0) := if_neg hv
    have hfinite : F64.isFinite r = true ↔ v.natAbs < (2 ^ 54 - 1) * 2 ^ 2044 := by
      simpa only [hr, pow_zero, mul_one] using F64.isFinite_round_iff (F64.sumSign a b) v.natAbs 0
    refine ⟨?_, hfinite, fun hinf => ?_, fun hv => hsign.trans (if_pos hv), fun hfin c _ => ?_⟩
    · rw [hr, F64.isNaN_round]
    · have hv : v ≠ 0 := by
        intro hzero
        have hfin : F64.isFinite r = true := hfinite.mpr (by rw [hzero, Int.natAbs_zero]; positivity)
        exact Bool.false_ne_true ((F64.isInf_of_isFinite hfin).symm.trans hinf)
      exact hsign.trans (hsum hv)
    · have hnear := F64.round_nearest_value (hr ▸ hfin) c
      rwa [F64.signed_natAbs hsum, pow_zero, mul_one, mul_one, ← hr] at hnear

/-- Settles O31: the special operands by the branches of `mul`; for finite operands the rules of `round` at 2^-1074 of a
unit. -/
theorem multiplicationRoundsToNearestEven : Obligations.MultiplicationRoundsToNearestEven := by
  intro a b v r
  refine ⟨fun h => ?_, fun ha hb hinf => ?_, fun ha hb => ?_⟩
  · rw [show r = F64.nan from F64.mul_of_isNaN h, F64.isNaN_nan]
  · have hr : r = _ := F64.mul_of_isInf ha hb hinf
    split
    case isTrue hzero => rw [hr, if_pos hzero, F64.isNaN_nan]
    case isFalse hnonzero =>
      rw [hr, if_neg hnonzero, F64.isInf_iff_mag]
      exact ⟨F64.mag_withSign _ (by decide), F64.signBit_withSign _ (by decide)⟩
  · have hr : r = _ := F64.mul_of_isFinite ha hb
    have hv : v = F64.signed (F64.signBit a != F64.signBit b) (F64.units a * F64.units b) :=
      F64.signed_mul (F64.signBit a) (F64.signBit b) (F64.units a) (F64.units b)
    refine ⟨?_, ?_, ?_, fun hfin c _ => ?_⟩
    · rw [hr, F64.isNaN_round]
    · rw [hr, F64.signBit_round]
    · rw [hr, hv, F64.natAbs_signed]
      exact F64.isFinite_round_iff _ _ _
    · rw [hr] at hfin ⊢
      rw [hv]
      exact F64.round_nearest_value hfin c

/-! Comparisons: the formula for the magnitude puts the infinities outermost. -/

/-- A value that is no NaN is an infinity, which the formula puts at 2^2098 units, or strictly between the infinities. -/
theorem F64.isInf_or_natAbs_value_lt {x : F64} (hx : F64.isNaN x = false) :
    (F64.isInf x = true ∧ F64.value x = F64.signed (F64.signBit x) (2 ^ 2098)) ∨
    (F64.isInf x = false ∧ (F64.value x).natAbs < 2 ^ 2098) := by
  cases hinf : F64.isInf x with
  | true => exact .inl ⟨rfl, by rw [F64.value_eq_signed, F64.units_of_isInf hinf]⟩
  | false =>
    have hfin : F64.isFinite x = true := by rw [F64.isFinite_eq_not_isInf hx, hinf, Bool.not_false]
    rw [F64.value_eq_signed, F64.natAbs_signed]
    exact .inr ⟨rfl, F64.units_lt_of_isFinite hfin⟩

/-- Of two values that are no NaN, the order of the formula's values is the order with the infinities outermost. -/
theorem F64.value_lt_iff_refLess {a b : F64} (ha : F64.isNaN a = false) (hb : F64.isNaN b = false) :
    F64.value a < F64.value b ↔ Machine.refLess a b := by
  have hva := F64.isInf_or_natAbs_value_lt ha
  have hvb := F64.isInf_or_natAbs_value_lt hb
  have hpos : 0 < 2 ^ 2098 := by positivity
  rw [Machine.refLess]
  generalize 2 ^ 2098 = B at *
  obtain ⟨hia, hva⟩ | ⟨hia, hva⟩ := hva
  · obtain ⟨hib, hvb⟩ | ⟨hib, hvb⟩ := hvb
    · simp only [hia, hib, hva, hvb, F64.signed]
      cases F64.signBit a <;> cases F64.signBit b <;> simp [hpos]
    · simp only [hia, hib, hva, F64.signed]
      cases F64.signBit a <;> simp <;> omega
  · obtain ⟨hib, hvb⟩ | ⟨hib, hvb⟩ := hvb
    · simp only [hia, hib, hvb, F64.signed]
      cases F64.signBit b <;> simp <;> omega
    · simp [hia, hib]

theorem F64.lt_iff (a b : F64) :
    F64.lt a b = true ↔ F64.isNaN a = false ∧ F64.isNaN b = false ∧ Machine.refLess a b := by
  simp only [F64.lt, Bool.and_eq_true, Bool.not_eq_true', decide_eq_true_eq, and_assoc]
  refine and_congr_right fun ha => and_congr_right fun hb => ?_
  exact F64.value_lt_iff_refLess ha hb

/-! The sign operations, bit by bit. -/

theorem F64.getLsbD_neg (a : F64) {k : Nat} (hk : k < 64) :
    (F64.neg a).getLsbD k = (a.getLsbD k ^^ decide (k = 63)) := by
  have hmask : (0x8000000000000000 : F64) = BitVec.twoPow 64 63 := by decide
  rw [F64.neg, BitVec.getLsbD_xor, hmask, BitVec.getLsbD_twoPow]
  simp [hk, eq_comm]

theorem F64.getLsbD_abs (a : F64) {k : Nat} (hk : k < 64) :
    (F64.abs a).getLsbD k = (a.getLsbD k && decide (k ≠ 63)) := by
  have hmask : ∀ j < 64, (0x7FFFFFFFFFFFFFFF : F64).getLsbD j = decide (j ≠ 63) := by decide
  rw [F64.abs, BitVec.getLsbD_and, hmask k hk]

/-- A positive power of two has the significand 2^52, one binade per exponent. -/
theorem F64.value_of_mag_binade {x : F64} {t : Nat} (hsign : F64.signBit x = false)
    (hx : F64.mag x = t * 2 ^ 52 + 2 ^ 52) : F64.value x = 2 ^ (52 + t) := by
  have hunits := F64.units_of_mag hx (by decide) (.inr le_rfl)
  rw [F64.value_eq_signed, hsign, hunits, ← pow_add]
  simp [F64.signed]

/-- Settles O60: comparison by the formula's order, sign operations bit by bit, the constants as powers of two. -/
theorem comparisonsSignsAndConstants : Obligations.ComparisonsSignsAndConstants := by
  have hone : F64.value F64.one = 2 ^ (52 + 1022) := F64.value_of_mag_binade (by decide) (by decide)
  have htwo : F64.value F64.two = 2 ^ (52 + 1023) := F64.value_of_mag_binade (by decide) (by decide)
  have hquarter : F64.value F64.quarter = 2 ^ (52 + 1020) := F64.value_of_mag_binade (by decide) (by decide)
  refine ⟨fun a b => ⟨F64.lt_iff a b, rfl, rfl⟩, fun a => ⟨?_, ?_, fun k hk => ⟨?_, ?_⟩⟩, rfl, hone, ?_, ?_, rfl⟩
  · rw [F64.signBit, F64.getLsbD_neg a (by decide)]
    simp [F64.signBit]
  · rw [F64.signBit, F64.getLsbD_abs a (by decide)]
    simp
  · rw [F64.getLsbD_neg a (by omega)]
    simp [hk.ne]
  · rw [F64.getLsbD_abs a (by omega)]
    simp [hk.ne]
  · exact htwo.trans (pow_succ' 2 1074)
  · rw [hquarter, show (4 : Int) = 2 ^ 2 from rfl, ← pow_add]

end Sys2Proof
end

section
/-! SUPPORT. The register map and the legality of an access by address, and what the step does with an access to a register. -/

namespace Sys2Proof.Machine

/-! Addresses (20_memory.md R91, 10_state.md R34, R59). -/

theorem regOf_eq_some_iff {a : Nat} {r : Reg} : regOf a = some r ↔ a = r.offset := by
  constructor
  · intro h
    have hoffset : r.offset = a := by simpa using List.find?_some h
    exact hoffset.symm
  · rintro rfl
    cases r <;> rfl

@[simp] theorem regOf_offset (r : Reg) : regOf r.offset = some r := regOf_eq_some_iff.mpr rfl

theorem Reg.offset_aligned (r : Reg) : r.offset % 4 = 0 ∧ r.offset ≤ 0x068 := by cases r <;> decide

/-- Registers stand exactly at the word offsets 0x000 to 0x068. -/
theorem exists_reg_offset_iff {a : Nat} : (∃ r : Reg, a = r.offset) ↔ a % 4 = 0 ∧ a ≤ 0x068 := by
  constructor
  · rintro ⟨r, rfl⟩
    exact r.offset_aligned
  · rintro ⟨haligned, hle⟩
    have hwords : ∀ k < 27, (regOf (4 * k)).isSome = true := by decide
    obtain ⟨r, hr⟩ := Option.isSome_iff_exists.mp (hwords (a / 4) (by omega))
    exact ⟨r, by rw [← regOf_eq_some_iff.mp hr]; omega⟩

theorem regOf_eq_none_iff {a : Nat} : regOf a = none ↔ ¬ (a % 4 = 0 ∧ a ≤ 0x068) := by
  simp [← exists_reg_offset_iff, Option.eq_none_iff_forall_ne_some, regOf_eq_some_iff]

theorem regionOf_isSome_iff {a : Nat} : (regionOf a).isSome = true ↔ refRam a := by
  have hcontains (r : Region) : r.contains a = true ↔ r.base ≤ a ∧ a < r.base + r.size := by simp [Region.contains]
  simp only [regionOf, List.find?_isSome, Region.all, List.exists_mem_cons_iff, hcontains, Region.base, Region.size,
    Config.nMax, Config.tapMax, Config.acarMax, Config.bufBytes, Config.qcarMax, Config.noiseMax, List.not_mem_nil, false_and,
    exists_false, or_false, refRam]
  constructor <;> omega

theorem Reg.isConfig_iff (r : Reg) : r.isConfig = true ↔ refConfig r.offset := by cases r <;> decide

/-! The legality of an access (20_memory.md R96). -/

/-- An access to a register is illegal only as a write to a configuration register while BUSY. -/
theorem accessCause_reg (s : State) (wr : Bool) {a : Addr} {r : Reg} (ha : a.toNat = r.offset) :
    accessCause s wr a = if s.csr.busy && wr && r.isConfig then some .busy else none := by
  simp [accessCause, ha, r.offset_aligned.1]

/-- The cause of an illegal access by address ranges. -/
theorem refCause_eq (s : State) (wr : Bool) (a : Addr) : refCause s wr a = (accessCause s wr a).map AccCause.code := by
  cases hr : regOf a.toNat with
  | some r =>
    have ha := regOf_eq_some_iff.mp hr
    obtain ⟨haligned, hle⟩ := r.offset_aligned
    have hram : ¬ refRam r.offset := by omega
    rw [accessCause_reg s wr ha, refCause, ha, if_neg (by omega), if_neg (by omega)]
    simp only [hram, false_or, ← Reg.isConfig_iff]
    cases s.csr.busy <;> cases wr <;> cases r.isConfig <;> rfl
  | none =>
    by_cases haligned : a.toNat % 4 = 0
    · have hbeyond : 0x068 < a.toNat := by
        have := regOf_eq_none_iff.mp hr
        omega
      have hconfig : ¬ refConfig a.toNat := by omega
      cases hregion : regionOf a.toNat with
      | none =>
        have hram : ¬ refRam a.toNat := by simp [← regionOf_isSome_iff, hregion]
        simp [refCause, accessCause, haligned, hr, hregion, hbeyond, hram, AccCause.code]
      | some region =>
        have hram : refRam a.toNat := regionOf_isSome_iff.mp (by simp [hregion])
        cases hb : s.csr.busy <;>
          simp [refCause, accessCause, haligned, hr, hregion, hram, hconfig, hb, AccCause.code]
    · simp [refCause, accessCause, haligned, AccCause.code]

/-! What the step does with a host access. -/

theorem step_hostRead {s : State} {a : Addr} {rest : List Event} (h : s.events = .hostRead a :: rest) :
    step s = .next (hostRead a { s with events := rest }) := by
  simp [step, h, handleEvent]

theorem step_hostWrite {s : State} {a : Addr} {v : Word} {rest : List Event} (h : s.events = .hostWrite a v :: rest) :
    step s = .next (hostWrite a v { s with events := rest }) := by
  simp [step, h, handleEvent]

/-- A register read is legal at any time and records what the register returns. -/
theorem step_readReg {s : State} {a : Addr} {r : Reg} {rest : List Event} (h : s.events = .hostRead a :: rest)
    (ha : a.toNat = r.offset) :
    step s = .next { s with events := rest, reads := s.csr.readReg r :: s.reads } := by
  simp [step_hostRead h, hostRead, accessCause_reg _ _ ha, busValue, ha]

/-- A register write that is legal stores. -/
theorem step_storeReg {s : State} {a : Addr} {v : Word} {r : Reg} {rest : List Event}
    (h : s.events = .hostWrite a v :: rest) (ha : a.toNat = r.offset) (hlegal : s.csr.busy = false ∨ r.isConfig = false) :
    step s = .next (busStore a v { s with events := rest }) := by
  have hnone : accessCause { s with events := rest } true a = none := by
    rcases hlegal with hidle | hother
    · simp [accessCause_reg _ _ ha, hidle]
    · simp [accessCause_reg _ _ ha, hother]
  simp [step_hostWrite h, hostWrite, hnone]

/-- A legal write to a register other than CTRL and CMD changes the register file only. -/
theorem step_writeReg {s : State} {a : Addr} {v : Word} {r : Reg} {rest : List Event}
    (h : s.events = .hostWrite a v :: rest) (ha : a.toNat = r.offset) (hlegal : s.csr.busy = false ∨ r.isConfig = false)
    (hctrl : r ≠ .ctrl) (hcmd : r ≠ .cmd) :
    step s = .next { s with events := rest, csr := s.csr.writeReg r v } := by
  rw [step_storeReg h ha hlegal]
  simp [busStore, ha]

theorem step_writeCtrl {s : State} {a : Addr} {v : Word} {rest : List Event} (h : s.events = .hostWrite a v :: rest)
    (ha : a.toNat = Reg.ctrl.offset) : step s = .next (writeCtrl v { s with events := rest }) := by
  simp [step_storeReg h ha (.inr rfl), busStore, ha]

/-! The obligations about writes to CTRL and STATUS. -/

/-- Settles O48: the write reaches `writeCtrl`, BUSY or not, and takes its arm without a reset. -/
theorem ctrlWriteSetsIrqEnable : Obligations.CtrlWriteSetsIrqEnable := by
  intro s v rest hbit hev
  rw [step_writeCtrl hev rfl, writeCtrl, hbit]
  rfl

/-- Settles O49: a flag written as 1 is the flag and the negation of that bit. -/
theorem statusWriteClearsWrittenOnes : Obligations.StatusWriteClearsWrittenOnes := by
  intro s v rest hev
  have hclear (flag bit : Bool) : (if bit = true then false else flag) = (flag && !bit) := by cases bit <;> simp
  rw [step_writeReg hev (r := .status) rfl (.inr rfl) (by decide) (by decide)]
  simp only [hclear]
  rfl

end Sys2Proof.Machine
end

section
/-! SUPPORT. What a register returns when read and what a write to it stores, as numbers and as masks. -/

namespace Sys2Proof.Machine

/-! Reads (10_state.md R34 to R58). -/

/-- Two bit fields side by side, as a number. -/
theorem toNat_append_eq {m n : Nat} (x : BitVec m) (y : BitVec n) : (x ++ y).toNat = x.toNat * 2 ^ n + y.toNat := by
  rw [BitVec.toNat_append, ← Nat.shiftLeft_add_eq_or_of_lt y.isLt, Nat.shiftLeft_eq]

/-- STATUS has BUSY, DONE, ERR, CMD_OVR, ACC_ERR and ILV_VALID from bit 0 upwards and ERRCODE from bit 8 (R37). -/
theorem Csr.toNat_statusWord (c : Csr) : c.statusWord.toNat =
    c.busy.toNat + 2 * c.doneFlag.toNat + 4 * c.err.toNat + 8 * c.cmdOvr.toNat + 16 * c.accErr.toNat
      + 32 * c.ilvValid.toNat + 0x100 * c.errcode.toNat := by
  rw [Csr.statusWord, toNat_append_eq]
  simp only [toNat_append_eq, BitVec.toNat_ofBool, BitVec.toNat_ofNat]
  omega

/-- ACC_ADDR has ADDR from bit 0, CAUSE from bit 29 and WR in bit 31 (R41). -/
theorem Csr.toNat_accAddrWord (c : Csr) : c.accAddrWord.toNat =
    c.accAddr.toNat + 0x20000000 * c.accCause.toNat + 0x80000000 * c.accWr.toNat := by
  rw [Csr.accAddrWord, toNat_append_eq]
  simp only [toNat_append_eq, BitVec.toNat_ofBool, BitVec.toNat_ofNat]
  omega

/-- A register reads as the sum of its fields at their places. -/
theorem Csr.toNat_readReg (c : Csr) (r : Reg) : (c.readReg r).toNat = refRegister c r.offset := by
  cases r with
  | status => exact c.toNat_statusWord
  | accAddr => exact c.toNat_accAddrWord
  | ctrl | rscTaps | crcCfg | qpskSmp | qpskCtrl =>
    rw [Csr.readReg, toNat_append_eq]
    simp only [toNat_append_eq, BitVec.toNat_ofBool, BitVec.toNat_ofNat, refRegister, Reg.offset, reduceIte, Nat.reduceEqDiff]
    omega
  | id | version | cmd | errInfo | srcLen | dstLen | lastCmd => rfl
  | frameLen | constraintLen | rsc1State | rsc2State | frHeader | crcPoly | crcInit | crcXorout | crcResult | askSpb | qpskSps
  | qpskFrameLen | qpskNtaps => exact BitVec.toNat_setWidth_of_le (by decide)

/-! Writes (10_state.md R34, R42 to R56). -/

/-- The bits a configuration register has. -/
def Reg.fieldMask : Reg → Word
  | .srcLen => 0xFFFFFFFF
  | .frameLen | .frHeader | .crcPoly | .crcInit | .crcXorout | .askSpb | .qpskSps => 0x0000FFFF
  | .constraintLen => 0x0000001F
  | .rscTaps => 0x00000F0F
  | .crcCfg => 0x00000003
  | .qpskFrameLen => 0x001FFFFF
  | .qpskNtaps => 0x000007FF
  | .qpskSmp => 0x031FFFFF
  | .qpskCtrl => 0x00000001
  | _ => 0

/-- Storing the low `n` bits of a word and reading them back masks the word. -/
theorem setWidth_extractLsb'_eq_and (v : Word) {n : Nat} (h : n ≤ 32) :
    (v.extractLsb' 0 n).setWidth 32 = v &&& BitVec.ofNat 32 (2 ^ n - 1) := by
  have hmask : 2 ^ n - 1 < 2 ^ 32 := by
    have : 2 ^ n ≤ 2 ^ 32 := Nat.pow_le_pow_right two_pos h
    have : 0 < 2 ^ n := Nat.two_pow_pos n
    omega
  apply BitVec.eq_of_toNat_eq
  rw [BitVec.toNat_setWidth_of_le h, BitVec.toNat_and, BitVec.toNat_ofNat, Nat.mod_eq_of_lt hmask,
    Nat.and_two_pow_sub_one_eq_mod, BitVec.extractLsb'_toNat, Nat.shiftRight_zero]

/-- A configuration register reads back what was written, in the bits it has. -/
theorem Csr.readReg_writeReg (c : Csr) (v : Word) {r : Reg} (h : r.isConfig = true) :
    (c.writeReg r v).readReg r = v &&& r.fieldMask := by
  cases r with
  | id | version | ctrl | status | cmd | errInfo | accAddr | dstLen | rsc1State | rsc2State | crcResult | lastCmd => cases h
  | srcLen => exact BitVec.and_allOnes.symm
  | frameLen | constraintLen | frHeader | crcPoly | crcInit | crcXorout | askSpb | qpskSps | qpskFrameLen | qpskNtaps =>
    exact setWidth_extractLsb'_eq_and v (by decide)
  | rscTaps | crcCfg | qpskSmp | qpskCtrl =>
    apply BitVec.eq_of_getLsbD_eq
    intro i hi
    rw [Csr.readReg, BitVec.getLsbD_append]
    simp only [BitVec.getLsbD_append, Csr.writeReg, Reg.fieldMask]
    interval_cases i <;> simp

/-- A configuration write changes the fields of its register only, and ILV_VALID by FRAME_LEN (R44). -/
theorem Csr.writeReg_eq_refOthersKept (c : Csr) (v : Word) {r : Reg} (h : r.isConfig = true) :
    c.writeReg r v = refOthersKept (BitVec.ofNat 23 r.offset) c (c.writeReg r v) := by
  cases r <;> simp [Csr.writeReg, refOthersKept, Reg.offset, Reg.isConfig] at h ⊢

/-- A write to a read-only register stores nothing. -/
theorem writeReg_of_readOnly {r : Reg} (h : r.offset ∈ [0x000, 0x004, 0x014, 0x018, 0x020, 0x030, 0x034, 0x04C, 0x068]) :
    r.isConfig = false ∧ r ≠ .ctrl ∧ r ≠ .cmd ∧ ∀ (v : Word) (c : Csr), c.writeReg r v = c := by
  cases r <;> simp [Reg.offset, Reg.isConfig, Csr.writeReg] at h ⊢

/-! The obligations about register reads and writes. -/

/-- Settles O59: an aligned address up to 0x068 is a register's, and the register reads as its fields say. -/
theorem registersReadTheirFields : Obligations.RegistersReadTheirFields := by
  intro s a v rest haligned hle
  obtain ⟨r, ha⟩ := exists_reg_offset_iff.mpr ⟨haligned, hle⟩
  refine ⟨fun hread => ⟨s.csr.readReg r, step_readReg hread ha, ?_⟩, fun hmem hwrite => ?_⟩
  · rw [ha, Csr.toNat_readReg]
  · rw [ha] at hmem
    obtain ⟨hconfig, hctrl, hcmd, hkeep⟩ := writeReg_of_readOnly hmem
    rw [step_writeReg hwrite ha (.inr hconfig) hctrl hcmd, hkeep]

theorem run_two {s t u : State} (hfirst : step s = .next t) (hsecond : step t = .next u) :
    Host.Core.run core 2 s = .next u := by
  simp [Host.Core.run, core, hfirst, hsecond]

/-- Settles O50: the fifteen pairs are the configuration registers with the bits they have; the two steps are the write and
the read of one register. -/
theorem configurationReadsBackItsFields : Obligations.ConfigurationReadsBackItsFields := by
  intro p hp s v rest hidle hev
  obtain ⟨r, hr, rfl⟩ : ∃ r ∈ Reg.all.filter Reg.isConfig, (BitVec.ofNat 23 r.offset, r.fieldMask) = p :=
    List.mem_map.mp hp
  have hconfig : r.isConfig = true := (List.mem_filter.mp hr).2
  have haddr : (BitVec.ofNat 23 r.offset).toNat = r.offset := by cases r <;> rfl
  have hwrite := step_writeReg hev haddr (.inl hidle) (by rintro rfl; cases hconfig) (by rintro rfl; cases hconfig)
  exact ⟨_, run_two hwrite (step_readReg rfl haddr), rfl, by rw [← s.csr.readReg_writeReg v hconfig], rfl, fun _ => rfl,
    s.csr.writeReg_eq_refOthersKept v hconfig⟩

end Sys2Proof.Machine
end

section
/-! SUPPORT. Which registers a command changes, and from which word it was decoded. -/

namespace Sys2Proof.Machine

/-! The registers after a command (10_state.md R57, 60_exceptions.md R336). -/

/-- The effect of a command changes DST_LEN and the result registers the spec names for it. -/
theorem commandEffect_csr (i : Instr) (s : State) : ∃ dstLen rsc1 rsc2 crc, (commandEffect i s).csr = { s.csr with
    dstLen := dstLen
    ilvValid := if i = .ilvchk then true else s.csr.ilvValid
    rsc1State := if i = .rscenc ∨ i = .tenc then rsc1 else s.csr.rsc1State
    rsc2State := if i = .tenc then rsc2 else s.csr.rsc2State
    crcResult := if i = .crc ∨ i = .fbuild ∨ i = .fparse then crc else s.csr.crcResult } := by
  refine ⟨(commandEffect i s).csr.dstLen, (commandEffect i s).csr.rsc1State, (commandEffect i s).csr.rsc2State,
    (commandEffect i s).csr.crcResult, ?_⟩
  cases i <;> rfl

/-- The register file after a command: a success leaves the error report alone, an error leaves the results alone. -/
theorem exec_csr_cases {i : Instr} {s t : State} (h : exec i s = .next t) :
    (∃ dstLen rsc1 rsc2 crc, t.csr = { s.csr with
      busy := false
      doneFlag := true
      dstLen := dstLen
      ilvValid := if i = .ilvchk then true else s.csr.ilvValid
      rsc1State := if i = .rscenc ∨ i = .tenc then rsc1 else s.csr.rsc1State
      rsc2State := if i = .tenc then rsc2 else s.csr.rsc2State
      crcResult := if i = .crc ∨ i = .fbuild ∨ i = .fparse then crc else s.csr.crcResult }) ∨
    ∃ e : CmdError, t.csr = { s.csr with
      busy := false
      doneFlag := true
      err := true
      errcode := e.kind.code
      errInfo := e.info
      dstLen := 0
      ilvValid := if i = .ilvchk then false else s.csr.ilvValid } := by
  rcases exec_cases i s with ⟨-, hok⟩ | ⟨e, -, herr⟩
  · obtain ⟨dstLen, rsc1, rsc2, crc, hcsr⟩ := commandEffect_csr i s
    cases hok.symm.trans h
    exact .inl ⟨dstLen, rsc1, rsc2, crc, by rw [completeOk_csr, hcsr]; rfl⟩
  · cases herr.symm.trans h
    refine .inr ⟨e, ?_⟩
    split <;> rfl

/-- Settles O40: either arm of a completion changes only registers the statement leaves out. -/
theorem commandsKeepTheOtherRegisters : Obligations.CommandsKeepTheOtherRegisters := by
  intro i s t h
  rcases exec_csr_cases h with ⟨dstLen, rsc1, rsc2, crc, hcsr⟩ | ⟨e, hcsr⟩
  · rw [hcsr]
    simp +contextual
  · rw [hcsr]
    simp +contextual

theorem exec_busy {i : Instr} {s t : State} (h : exec i s = .next t) : t.csr.busy = false := by
  rcases exec_csr_cases h with ⟨_, _, _, _, hcsr⟩ | ⟨_, hcsr⟩ <;> simp [hcsr]

/-- No command changes what only host accesses set. -/
theorem exec_keeps_bus {i : Instr} {s t : State} (h : exec i s = .next t) :
    t.csr.cmdOvr = s.csr.cmdOvr ∧ t.csr.accErr = s.csr.accErr ∧ t.csr.lastCmd = s.csr.lastCmd := by
  have hkeep := commandsKeepTheOtherRegisters i s t h
  exact ⟨(congrArg Csr.cmdOvr hkeep :), (congrArg Csr.accErr hkeep :), (congrArg Csr.lastCmd hkeep :)⟩

/-! The word of a decoded command (30_encoding.md R130, R133). -/

theorem opcodeMap_fields {op arg : Byte} {i : Instr} (h : opcodeMap op arg = some i) :
    i.opcode = op ∧ (i = .tdec arg ∨ (∀ iter, i ≠ .tdec iter) ∧ i.arg = 0) := by
  unfold opcodeMap at h
  split at h <;> cases h <;> simp [Instr.opcode, Instr.arg]

theorem word_eq_fields (w : Word) : w = (cmdRsv w ++ cmdArg w ++ cmdOp w : BitVec (16 + 8 + 8)) := by
  apply BitVec.eq_of_getLsbD_eq
  intro i hi
  rw [BitVec.getLsbD_append]
  simp only [BitVec.getLsbD_append, cmdRsv, cmdArg, cmdOp]
  interval_cases i <;> simp

/-- A command is decoded from its own command word only. -/
theorem eq_encode_of_decode {w : Word} {i : Instr} (h : decode w = .ok i) : w = encode i := by
  obtain ⟨hrsv, hmap, harg⟩ : cmdRsv w = 0#16 ∧ opcodeMap (cmdOp w) (cmdArg w) = some i ∧ cmdArg w = i.arg := by
    unfold decode at h
    split at h
    · cases h
    · next hrsv =>
      refine ⟨not_not.mp hrsv, ?_⟩
      split at h
      · cases h
      · next iter hmap =>
        obtain ⟨-, harg | ⟨hother, -⟩⟩ := opcodeMap_fields hmap
        · split at h <;> cases h
          exact ⟨hmap, (Instr.tdec.inj harg).symm⟩
        · exact absurd rfl (hother iter)
      · next j hother hmap =>
        split at h <;> cases h
        next hzero =>
          obtain ⟨-, htdec | ⟨-, harg⟩⟩ := opcodeMap_fields hmap
          · exact (hother _ htdec).elim
          · exact ⟨hmap, hzero.trans harg.symm⟩
  rw [word_eq_fields w, hrsv, harg, ← (opcodeMap_fields hmap).1, encode]

end Sys2Proof.Machine
end

section
/-! SUPPORT. One step as one of eleven kinds, each with what it needs and the state it leaves; what the registers keep
under each. The invariants of the register file are case splits over these kinds. -/

namespace Sys2Proof.Machine

/-- What one step from `s` can be. `es` are the events left and `rs` the values the host has read. -/
inductive StepKind (s : State) : State → Prop
  /-- a turn of the IDLE sequencer or a legal read: the registers and the memory stay -/
  | quiet (es : List Event) (rs : List Word) : StepKind s { s with events := es, reads := rs }
  /-- the latched command completes -/
  | command (es : List Event) (i : Instr) (t : State) (busy : s.csr.busy = true) (latched : s.csr.lastCmd = encode i)
      (run : exec i { s with events := es } = .next t) : StepKind s t
  /-- the latched word is illegal and completes as such -/
  | illegalWord (es : List Event) (busy : s.csr.busy = true) : StepKind s (completeIllegal { s with events := es })
  /-- an illegal access notes itself -/
  | noted (es : List Event) (rs : List Word) (cause : AccCause) (wr : Bool) (a : Addr)
      (next : s.events = .hostRead a :: es ∧ wr = false ∨ (∃ v, s.events = .hostWrite a v :: es) ∧ wr = true)
      (illegal : accessCause s wr a = some cause) : StepKind s { noteIllegal cause wr a s with events := es, reads := rs }
  /-- a CTRL write without SOFT_RESET -/
  | irqEnable (es : List Event) (v : Word) : StepKind s { s with events := es, csr := { s.csr with irqEn := v.getLsbD 0 } }
  /-- a CTRL write with SOFT_RESET -/
  | softReset (es : List Event) : StepKind s (softReset { s with events := es })
  /-- a CMD write in IDLE -/
  | accepted (es : List Event) (w : Word) (next : s.events = .hostWrite 0x010 w :: es) (idle : s.csr.busy = false) :
      StepKind s (acceptCmd w { s with events := es })
  /-- a CMD write while BUSY -/
  | dropped (es : List Event) (w : Word) (next : s.events = .hostWrite 0x010 w :: es) (busy : s.csr.busy = true) :
      StepKind s (dropCmd { s with events := es })
  /-- a legal write to any other register -/
  | register (es : List Event) (r : Reg) (v : Word) (legal : s.csr.busy = false ∨ r.isConfig = false) :
      StepKind s { s with events := es, csr := s.csr.writeReg r v }
  /-- a legal RAM write -/
  | ram (es : List Event) (a : Addr) (v : Word) (idle : s.csr.busy = false) : StepKind s (writeRam a v { s with events := es })
  /-- power-on reset -/
  | powerOn (es : List Event) : StepKind s (powerOnReset { s with events := es })

/-- A RAM access is legal in IDLE only (20_memory.md R96). -/
theorem idle_of_legal_ram {s : State} {wr : Bool} {a : Addr} (hreg : regOf a.toNat = none)
    (hlegal : accessCause s wr a = none) : s.csr.busy = false := by
  unfold accessCause at hlegal
  split at hlegal
  · cases hlegal
  · rw [hreg] at hlegal
    dsimp only at hlegal
    split at hlegal
    · simpa using hlegal
    · cases hlegal

/-- A turn of the sequencer is quiet or a completion. -/
theorem stepKind_of_sequencerTurn {s t : State} {es : List Event} (h : sequencerTurn { s with events := es } = .next t) :
    StepKind s t := by
  rcases sequencerTurn_cases { s with events := es } with ⟨-, hturn⟩ | ⟨hbusy, i, hdecode, hturn⟩ | ⟨hbusy, e, -, hturn⟩
  · cases hturn.symm.trans h
    exact .quiet es s.reads
  · exact .command es i t hbusy (eq_encode_of_decode hdecode) (hturn.symm.trans h)
  · cases hturn.symm.trans h
    exact .illegalWord es hbusy

theorem stepKind_of_hostRead {s : State} {a : Addr} {es : List Event} (hev : s.events = .hostRead a :: es) :
    StepKind s (hostRead a { s with events := es }) := by
  rcases hostRead_cases a { s with events := es } with ⟨cause, hcause, hread⟩ | ⟨-, hread⟩
  · rw [hread]
    exact .noted es _ cause false a (.inl ⟨hev, rfl⟩) hcause
  · rw [hread]
    exact .quiet es _

theorem stepKind_of_writeCmd {s : State} {v : Word} {es : List Event} (hev : s.events = .hostWrite 0x010 v :: es) :
    StepKind s (writeCmd v { s with events := es }) := by
  cases hbusy : s.csr.busy with
  | false => simpa [writeCmd, hbusy] using StepKind.accepted es v hev hbusy
  | true => simpa [writeCmd, hbusy] using StepKind.dropped es v hev hbusy

theorem stepKind_of_hostWrite {s : State} {a : Addr} {v : Word} {es : List Event} (hev : s.events = .hostWrite a v :: es) :
    StepKind s (hostWrite a v { s with events := es }) := by
  rcases hostWrite_cases a v { s with events := es } with
    ⟨cause, hcause, hwrite⟩ | ⟨hlegal, ⟨-, hwrite⟩ | ⟨hreg, hwrite⟩ | ⟨r, hreg, -, -, hwrite⟩ | ⟨hreg, hwrite⟩⟩
  all_goals rw [hwrite]
  · exact .noted es s.reads cause true a (.inr ⟨⟨v, hev⟩, rfl⟩) hcause
  · unfold writeCtrl
    split
    · exact .softReset es
    · exact .irqEnable es v
  · have ha : a = 0x010 := BitVec.eq_of_toNat_eq (regOf_eq_some_iff.mp hreg)
    exact stepKind_of_writeCmd (ha ▸ hev)
  · rw [accessCause_reg _ _ (regOf_eq_some_iff.mp hreg)] at hlegal
    exact .register es r v (by cases hb : s.csr.busy <;> simp_all)
  · exact .ram es a v (idle_of_legal_ram hreg hlegal)

/-- Every step is of one of the kinds. -/
theorem stepKind_of_step {s t : State} (h : step s = .next t) : StepKind s t := by
  rcases step_cases s with ⟨hev, hstep⟩ | ⟨es, -, hstep⟩ | ⟨a, es, hev, hstep⟩ | ⟨a, v, es, hev, hstep⟩ | ⟨es, -, hstep⟩
  · exact stepKind_of_sequencerTurn (es := s.events) (hstep.symm.trans h)
  · exact stepKind_of_sequencerTurn (hstep.symm.trans h)
  all_goals cases hstep.symm.trans h
  · exact stepKind_of_hostRead hev
  · exact stepKind_of_hostWrite hev
  · exact .powerOn es

/-! What noting an access and writing a register keep. -/

/-- ACC_ERR is set; ACC_ADDR takes the access if ACC_ERR was 0 (20_memory.md R96). -/
theorem Csr.noteAccess_eq (cause : AccCause) (wr : Bool) (a : Addr) (c : Csr) :
    c.noteAccess cause wr a = { c with
      accErr := true
      accAddr := if c.accErr then c.accAddr else a
      accCause := if c.accErr then c.accCause else cause.code
      accWr := if c.accErr then c.accWr else wr } := by
  cases c with
  | _ _ _ _ _ _ accErr => cases accErr <;> rfl

/-- A RAM write changes ILV_VALID at most, and only clears it (42_turbo_encoder.md R194). -/
theorem writeRam_csr_eq (a : Addr) (v : Word) (s : State) :
    (writeRam a v s).csr = { s.csr with ilvValid := s.csr.ilvValid && !Region.ilv.contains a.toNat } := by
  rw [writeRam_csr]
  cases Region.ilv.contains a.toNat <;> simp

@[simp] theorem Csr.writeReg_busy (r : Reg) (v : Word) (c : Csr) : (c.writeReg r v).busy = c.busy := by cases r <;> rfl
@[simp] theorem Csr.writeReg_errcode (r : Reg) (v : Word) (c : Csr) : (c.writeReg r v).errcode = c.errcode := by
  cases r <;> rfl
@[simp] theorem Csr.writeReg_errInfo (r : Reg) (v : Word) (c : Csr) : (c.writeReg r v).errInfo = c.errInfo := by
  cases r <;> rfl
@[simp] theorem Csr.writeReg_dstLen (r : Reg) (v : Word) (c : Csr) : (c.writeReg r v).dstLen = c.dstLen := by
  cases r <;> rfl
@[simp] theorem Csr.writeReg_accCause (r : Reg) (v : Word) (c : Csr) : (c.writeReg r v).accCause = c.accCause := by
  cases r <;> rfl
@[simp] theorem Csr.writeReg_lastCmd (r : Reg) (v : Word) (c : Csr) : (c.writeReg r v).lastCmd = c.lastCmd := by
  cases r <;> rfl

/-! A register write raises no flag: STATUS clears the flags written as 1 (10_state.md R37), FRAME_LEN clears ILV_VALID (R44). -/

@[simp] theorem Csr.writeReg_doneFlag (r : Reg) (v : Word) (c : Csr) :
    (c.writeReg r v).doneFlag = (c.doneFlag && !(decide (r = .status) && v.getLsbD 1)) := by cases r <;> simp [Csr.writeReg]
@[simp] theorem Csr.writeReg_err (r : Reg) (v : Word) (c : Csr) :
    (c.writeReg r v).err = (c.err && !(decide (r = .status) && v.getLsbD 2)) := by cases r <;> simp [Csr.writeReg]
@[simp] theorem Csr.writeReg_cmdOvr (r : Reg) (v : Word) (c : Csr) :
    (c.writeReg r v).cmdOvr = (c.cmdOvr && !(decide (r = .status) && v.getLsbD 3)) := by cases r <;> simp [Csr.writeReg]
@[simp] theorem Csr.writeReg_accErr (r : Reg) (v : Word) (c : Csr) :
    (c.writeReg r v).accErr = (c.accErr && !(decide (r = .status) && v.getLsbD 4)) := by cases r <;> simp [Csr.writeReg]
@[simp] theorem Csr.writeReg_ilvValid (r : Reg) (v : Word) (c : Csr) :
    (c.writeReg r v).ilvValid = (c.ilvValid && !decide (r = .frameLen)) := by cases r <;> simp [Csr.writeReg]

/-- A register write that is legal while BUSY changes flags of STATUS only (10_state.md R57). -/
theorem Csr.writeReg_of_not_config (r : Reg) (v : Word) (c : Csr) (h : r.isConfig = false) :
    c.writeReg r v = { c with
      doneFlag := (c.writeReg r v).doneFlag
      err := (c.writeReg r v).err
      cmdOvr := (c.writeReg r v).cmdOvr
      accErr := (c.writeReg r v).accErr } := by
  cases r with
  | srcLen | frameLen | constraintLen | rscTaps | frHeader | crcPoly | crcInit | crcXorout | crcCfg | askSpb | qpskSps
  | qpskFrameLen | qpskNtaps | qpskSmp | qpskCtrl => cases h
  | id | version | ctrl | status | cmd | errInfo | accAddr | dstLen | rsc1State | rsc2State | crcResult | lastCmd => rfl

end Sys2Proof.Machine
end

section
/-! 10_state.md settled: the error channel stays consistent, a BUSY block is frozen, each flag is set only as listed. -/

namespace Sys2Proof.Machine

/-! The error channel (10_state.md R37, R40, R41, R43). -/

theorem ErrKind.code_listed (k : ErrKind) :
    (k.code.toNat ≤ 0x09 ∨ 0x10 ≤ k.code.toNat ∧ k.code.toNat ≤ 0x14) ∧ k.code ≠ 0 := by cases k <;> decide

theorem AccCause.code_ne_three (cause : AccCause) : cause.code ≠ 3 := by cases cause <;> decide

/-- The report of an error is consistent. -/
theorem Csr.reportsKept_of_error {c : Csr} {e : CmdError} (hcause : c.accCause ≠ 3) (hbusy : c.busy = false)
    (hcode : c.errcode = e.kind.code) (hdst : c.dstLen = 0) : c.reportsKept := by
  obtain ⟨hlisted, hnonzero⟩ := e.kind.code_listed
  rw [← hcode] at hlisted hnonzero
  exact ⟨hlisted, hcause, by simp [hbusy], fun _ => hnonzero, fun hzero => absurd hzero hnonzero, fun _ => hdst⟩

/-- The report of no error is consistent, unless it stands as DONE while BUSY. -/
theorem Csr.reportsKept_of_no_error {c : Csr} (hcause : c.accCause ≠ 3) (hcode : c.errcode = 0) (hinfo : c.errInfo = 0)
    (herr : c.err = false) (hdone : c.busy = true → c.doneFlag = false) : c.reportsKept :=
  ⟨by simp [hcode], hcause, fun hbusy => ⟨hdone hbusy, herr, hcode, hinfo⟩, by simp [herr], fun _ => hinfo,
    fun hnonzero => absurd hcode hnonzero⟩

/-- A change that leaves BUSY and the report alone, raises neither DONE nor ERR and notes no CAUSE 3 keeps the channel
consistent. -/
theorem Csr.reportsKept_of_quiet {c d : Csr} (h : c.reportsKept) (hbusy : d.busy = c.busy) (hcode : d.errcode = c.errcode)
    (hinfo : d.errInfo = c.errInfo) (hdst : d.dstLen = c.dstLen) (hdone : d.doneFlag = true → c.doneFlag = true)
    (herr : d.err = true → c.err = true) (hcause : d.accCause ≠ 3) : d.reportsKept := by
  obtain ⟨hlisted, -, hclean, hcoded, hsuccess, hfailure⟩ := h
  refine ⟨hcode ▸ hlisted, hcause, fun hb => ?_, fun he => hcode ▸ hcoded (herr he), ?_, ?_⟩
  · obtain ⟨hdone0, herr0, hcode0, hinfo0⟩ := hclean (hbusy ▸ hb)
    exact ⟨by simpa [hdone0] using hdone, by simpa [herr0] using herr, hcode.trans hcode0, hinfo.trans hinfo0⟩
  · rw [hcode, hinfo]
    exact hsuccess
  · rw [hcode, hdst]
    exact hfailure

theorem Csr.reportsKept_noteAccess {c : Csr} (h : c.reportsKept) (cause : AccCause) (wr : Bool) (a : Addr) :
    (c.noteAccess cause wr a).reportsKept := by
  unfold Csr.noteAccess
  split
  · exact h
  · exact Csr.reportsKept_of_quiet h rfl rfl rfl rfl id id cause.code_ne_three

theorem Csr.reportsKept_writeReg {c : Csr} (h : c.reportsKept) (r : Reg) (v : Word) : (c.writeReg r v).reportsKept := by
  have hcause : c.accCause ≠ 3 := h.2.1
  exact Csr.reportsKept_of_quiet h (by simp) (by simp) (by simp) (by simp) (by simp +contextual) (by simp +contextual)
    (by simpa using hcause)

/-- While BUSY no report stands, so a success reports none; a failure reports its own. -/
theorem reportsKept_exec {i : Instr} {s t : State} (h : s.csr.reportsKept) (hbusy : s.csr.busy = true)
    (hrun : exec i s = .next t) : t.csr.reportsKept := by
  obtain ⟨-, hcause, hclean, -⟩ := h
  obtain ⟨-, herr, hcode, hinfo⟩ := hclean hbusy
  rcases exec_csr_cases hrun with ⟨_, _, _, _, hcsr⟩ | ⟨e, hcsr⟩ <;> rw [hcsr]
  · exact Csr.reportsKept_of_no_error hcause hcode hinfo herr nofun
  · exact Csr.reportsKept_of_error (e := e) hcause rfl rfl rfl

/-- Settles O43, by the kinds of a step. -/
theorem stepKeepsReportsConsistent : Obligations.StepKeepsReportsConsistent := by
  intro s t h hstep
  have hcause : s.csr.accCause ≠ 3 := h.2.1
  cases stepKind_of_step hstep with
  | quiet | irqEnable | dropped => exact h
  | command es i t busy latched run => exact reportsKept_exec (s := { s with events := es }) h busy run
  | illegalWord => exact Csr.reportsKept_of_error (e := ⟨.illegalCommand, s.csr.lastCmd⟩) hcause rfl rfl rfl
  | noted es rs cause wr a => exact Csr.reportsKept_noteAccess h cause wr a
  | accepted => exact Csr.reportsKept_of_no_error hcause rfl rfl rfl fun _ => rfl
  | register es r v => exact Csr.reportsKept_writeReg h r v
  | ram es a v =>
    rw [writeRam_csr_eq]
    exact h
  | softReset | powerOn => exact (by decide : Csr.reset.reportsKept)

/-! While BUSY (10_state.md R57, R63). -/

/-- Settles O54: a step that ends BUSY completes and resets nothing, so it is quiet or a bus access that changes flags. -/
theorem busyBlockIsFrozen : Obligations.BusyBlockIsFrozen := by
  intro s t hbusy hstep hstill
  cases stepKind_of_step hstep with
  | command es i t busy latched run => simp [exec_busy run] at hstill
  | illegalWord | softReset | powerOn => cases hstill
  | accepted es w next idle | ram es a v idle => simp [hbusy] at idle
  | register es r v legal =>
    have hother : r.isConfig = false := by simpa [hbusy] using legal
    refine ⟨fun _ => rfl, ?_⟩
    dsimp only
    rw [Csr.writeReg_of_not_config r v s.csr hother]
  | noted es rs cause wr a =>
    refine ⟨fun _ => rfl, ?_⟩
    simp [Csr.noteAccess_eq]
  | quiet | irqEnable | dropped => exact ⟨fun _ => rfl, rfl⟩

/-! What raises each flag (10_state.md R58, R60). -/

section
variable {s t : State}

theorem StepKind.completes_of_done (h : StepKind s t) (hlow : s.csr.doneFlag = false) (hhigh : t.csr.doneFlag = true) :
    s.csr.busy = true ∧ t.csr.busy = false := by
  cases h with
  | command es i t busy latched run => exact ⟨busy, exec_busy run⟩
  | illegalWord es busy => exact ⟨busy, rfl⟩
  | accepted | softReset | powerOn => cases hhigh
  | quiet | irqEnable | dropped | register => simp [hlow] at hhigh
  | noted => simp [Csr.noteAccess_eq, hlow] at hhigh
  | ram =>
    rw [writeRam_csr_eq] at hhigh
    simp [hlow] at hhigh

theorem StepKind.fails_of_err (h : StepKind s t) (hlow : s.csr.err = false) (hhigh : t.csr.err = true) :
    s.csr.busy = true ∧ t.csr.busy = false ∧ t.csr.errcode ≠ 0 := by
  cases h with
  | command es i t busy latched run =>
    refine ⟨busy, exec_busy run, ?_⟩
    rcases exec_csr_cases run with ⟨_, _, _, _, hcsr⟩ | ⟨e, hcsr⟩ <;> rw [hcsr] at hhigh ⊢
    · simp [hlow] at hhigh
    · exact e.kind.code_listed.2
  | illegalWord es busy => exact ⟨busy, rfl, ErrKind.illegalCommand.code_listed.2⟩
  | accepted | softReset | powerOn => cases hhigh
  | quiet | irqEnable | dropped | register => simp [hlow] at hhigh
  | noted => simp [Csr.noteAccess_eq, hlow] at hhigh
  | ram =>
    rw [writeRam_csr_eq] at hhigh
    simp [hlow] at hhigh

theorem StepKind.accepts_of_busy (h : StepKind s t) (hlow : s.csr.busy = false) (hhigh : t.csr.busy = true) :
    ∃ w rest, s.events = .hostWrite 0x010 w :: rest ∧ t.csr.lastCmd = w := by
  cases h with
  | accepted es w next => exact ⟨w, es, next, rfl⟩
  | command es i t busy | illegalWord es busy => simp [hlow] at busy
  | softReset | powerOn => cases hhigh
  | quiet | irqEnable | dropped | register => simp [hlow] at hhigh
  | noted => simp [Csr.noteAccess_eq, hlow] at hhigh
  | ram =>
    rw [writeRam_csr_eq] at hhigh
    simp [hlow] at hhigh

theorem StepKind.accepts_or_resets_of_lastCmd (h : StepKind s t) (hchange : t.csr.lastCmd ≠ s.csr.lastCmd) :
    t.csr.lastCmd = 0 ∨
      (s.csr.busy = false ∧ ∃ w rest, s.events = .hostWrite 0x010 w :: rest ∧ t.csr.lastCmd = w) := by
  cases h with
  | accepted es w next idle => exact .inr ⟨idle, w, es, next, rfl⟩
  | softReset | powerOn => exact .inl rfl
  | command es i t busy latched run => exact absurd (exec_keeps_bus run).2.2 hchange
  | quiet | irqEnable | dropped | register | illegalWord => simp [completeIllegal] at hchange
  | noted => simp [Csr.noteAccess_eq] at hchange
  | ram =>
    rw [writeRam_csr_eq] at hchange
    simp at hchange

theorem StepKind.drops_of_cmdOvr (h : StepKind s t) (hlow : s.csr.cmdOvr = false) (hhigh : t.csr.cmdOvr = true) :
    s.csr.busy = true ∧ ∃ w rest, s.events = .hostWrite 0x010 w :: rest := by
  cases h with
  | dropped es w next busy => exact ⟨busy, w, es, next⟩
  | command es i t busy latched run => simp [exec_keeps_bus run, hlow] at hhigh
  | softReset | powerOn => cases hhigh
  | quiet | irqEnable | accepted | register | illegalWord => simp [completeIllegal, hlow] at hhigh
  | noted => simp [Csr.noteAccess_eq, hlow] at hhigh
  | ram =>
    rw [writeRam_csr_eq] at hhigh
    simp [hlow] at hhigh

theorem StepKind.illegal_of_accErr (h : StepKind s t) (hlow : s.csr.accErr = false) (hhigh : t.csr.accErr = true) :
    ∃ a rest, (s.events = .hostRead a :: rest ∧ refCause s false a ≠ none) ∨
      ((∃ v, s.events = .hostWrite a v :: rest) ∧ refCause s true a ≠ none) := by
  cases h with
  | noted es rs cause wr a next illegal =>
    have hrefused : refCause s wr a ≠ none := by simp [refCause_eq, illegal]
    rcases next with ⟨hread, rfl⟩ | ⟨hwrite, rfl⟩
    · exact ⟨a, es, .inl ⟨hread, hrefused⟩⟩
    · exact ⟨a, es, .inr ⟨hwrite, hrefused⟩⟩
  | command es i t busy latched run => simp [exec_keeps_bus run, hlow] at hhigh
  | softReset | powerOn => cases hhigh
  | quiet | irqEnable | accepted | dropped | register | illegalWord => simp [completeIllegal, hlow] at hhigh
  | ram =>
    rw [writeRam_csr_eq] at hhigh
    simp [hlow] at hhigh

theorem StepKind.validates_of_ilvValid (h : StepKind s t) (hlow : s.csr.ilvValid = false) (hhigh : t.csr.ilvValid = true) :
    s.csr.busy = true ∧ s.csr.lastCmd = 0x00000001 ∧ t.csr.busy = false := by
  cases h with
  | command es i t busy latched run =>
    have hi : i = .ilvchk := by
      rcases exec_csr_cases run with ⟨_, _, _, _, hcsr⟩ | ⟨_, hcsr⟩
      · simpa [hcsr, hlow] using hhigh
      · simp [hcsr, hlow] at hhigh
    subst hi
    exact ⟨busy, latched, exec_busy run⟩
  | softReset | powerOn => cases hhigh
  | quiet | irqEnable | accepted | dropped | register | illegalWord => simp [completeIllegal, hlow] at hhigh
  | noted => simp [Csr.noteAccess_eq, hlow] at hhigh
  | ram =>
    rw [writeRam_csr_eq] at hhigh
    simp [hlow] at hhigh

end

/-- Settles O55, flag by flag over the kinds of a step. -/
theorem flagsAreSetOnlyAsListed : Obligations.FlagsAreSetOnlyAsListed := by
  intro s t hstep
  have h := stepKind_of_step hstep
  exact ⟨h.completes_of_done, h.fails_of_err, h.accepts_of_busy, h.accepts_or_resets_of_lastCmd, h.drops_of_cmdOvr,
    h.illegal_of_accErr, h.validates_of_ilvValid⟩

end Sys2Proof.Machine
end

section
/-! 20_memory.md settled for the bus: the address map, illegal accesses, legal accesses to RAM. -/

namespace Sys2Proof.Machine

/-! The address map (20_memory.md R91). -/

theorem Region.contains_iff (r : Region) (a : Nat) : r.contains a = true ↔ r.base ≤ a ∧ a < r.base + r.size := by
  simp [Region.contains]

theorem Region.disjoint (r q : Region) : r = q ∨ r.base + r.size ≤ q.base ∨ q.base + q.size ≤ r.base := by
  cases r <;> cases q <;> decide

theorem Region.mem_all (r : Region) : r ∈ Region.all := by cases r <;> decide

theorem Region.contains_of_regionOf {a : Nat} {r : Region} (h : regionOf a = some r) : r.contains a = true :=
  List.find?_some (p := fun q : Region => q.contains a) h

/-- An address lies in one region at most, so the map finds the region that holds it. -/
theorem regionOf_eq_some_iff {a : Nat} {r : Region} : regionOf a = some r ↔ r.base ≤ a ∧ a < r.base + r.size := by
  rw [← Region.contains_iff]
  constructor
  · exact Region.contains_of_regionOf
  · intro hr
    obtain ⟨q, hq⟩ : ∃ q, regionOf a = some q :=
      Option.isSome_iff_exists.mp (List.find?_isSome.mpr ⟨r, r.mem_all, hr⟩)
    have hqa := Region.contains_of_regionOf hq
    rw [Region.contains_iff] at hr hqa
    rcases r.disjoint q with rfl | hbelow | habove
    · exact hq
    · omega
    · omega

/-- Settles O58: each range of the list is the used part of its region, and outside all of them the map finds none. -/
theorem addressMapAsListed : Obligations.AddressMapAsListed := by
  intro a
  constructor
  · split_ifs with hilv htap hacar hsrc hdst hqcos hqsin hnoise
    case neg =>
      have hnone : ¬ (regionOf a).isSome = true := by rw [regionOf_isSome_iff]; omega
      simpa using hnone
    all_goals
      refine regionOf_eq_some_iff.mpr ?_
      simp only [Region.base, Region.size, Config.nMax, Config.tapMax, Config.acarMax, Config.bufBytes, Config.qcarMax,
        Config.noiseMax]
      omega
  · rw [Option.isSome_iff_ne_none, ne_eq, regOf_eq_none_iff, not_not]

/-! Illegal accesses (20_memory.md R96). -/

theorem accessCause_eq_some_of_refCause {s : State} {wr : Bool} {a : Addr} {code : BitVec 2}
    (h : refCause s wr a = some code) : ∃ cause : AccCause, accessCause s wr a = some cause ∧ cause.code = code := by
  rwa [refCause_eq, Option.map_eq_some_iff] at h

theorem accessCause_eq_none_iff {s : State} {wr : Bool} {a : Addr} :
    accessCause s wr a = none ↔ refCause s wr a = none := by
  rw [refCause_eq, Option.map_eq_none_iff]

theorem refNoted_eq (c : Csr) (cause : AccCause) (wr : Bool) (a : Addr) :
    refNoted c cause.code wr a = c.noteAccess cause wr a := rfl

theorem accessCause_withEvents (s : State) (es : List Event) (wr : Bool) (a : Addr) :
    accessCause { s with events := es } wr a = accessCause s wr a := rfl

/-- Settles O51: the cause by numbers is the code of the bus's own cause, which decides between noting the access and
performing it. -/
theorem illegalAccessesOnlyNoteThemselves : Obligations.IllegalAccessesOnlyNoteThemselves := by
  intro s a v code rest
  refine ⟨fun hcode hev => ?_, fun hcode hev => ?_, fun hlegal hev => ?_⟩
  · obtain ⟨cause, hcause, rfl⟩ := accessCause_eq_some_of_refCause hcode
    simp only [step_hostRead hev, hostRead, accessCause_withEvents, hcause, refNoted_eq]
    rfl
  · obtain ⟨cause, hcause, rfl⟩ := accessCause_eq_some_of_refCause hcode
    simp only [step_hostWrite hev, hostWrite, accessCause_withEvents, hcause, refNoted_eq]
    rfl
  · have hnone := accessCause_eq_none_iff.mpr hlegal
    exact ⟨busValue s a, by simp only [step_hostRead hev, hostRead, accessCause_withEvents, hnone]; rfl⟩

/-! Legal accesses to RAM (20_memory.md R93, R97). -/

theorem regOf_eq_none_of_refRam {a : Nat} (h : refRam a) : regOf a = none := regOf_eq_none_iff.mpr (by omega)

/-- A legal access to no register is an aligned access to RAM. -/
theorem ram_of_legal {s : State} {wr : Bool} {a : Addr} (hreg : regOf a.toNat = none)
    (hlegal : accessCause s wr a = none) : a.toNat % 4 = 0 ∧ refRam a.toNat := by
  have hbeyond := regOf_eq_none_iff.mp hreg
  rw [accessCause_eq_none_iff] at hlegal
  unfold refCause at hlegal
  split_ifs at hlegal with haligned hreserved
  omega

/-- An aligned access to RAM is legal in IDLE. -/
theorem legal_of_ram {s : State} {a : Addr} (wr : Bool) (hidle : s.csr.busy = false) (haligned : a.toNat % 4 = 0)
    (hram : refRam a.toNat) : accessCause s wr a = none := by
  rw [accessCause_eq_none_iff, refCause, if_neg (by omega), if_neg (by tauto), if_neg (by simp [hidle])]

/-- Byte `j` of the little-endian bytes of a number. -/
theorem leBytes_getElem (n : Nat) : ∀ (v j : Nat) (h : j < (leBytes n v).length),
    (leBytes n v)[j] = BitVec.ofNat 8 (v / 256 ^ j) := by
  induction n with
  | zero => intro v j h; simp [leBytes] at h
  | succ n ih =>
    intro v j h
    cases j with
    | zero => simp [leBytes]
    | succ j => simp [leBytes, ih, Nat.div_div_eq_div_mul, Nat.pow_succ']

/-- The little-endian number of four bytes has the last one on top. -/
theorem ofNat_leNat_four (b0 b1 b2 b3 : Byte) :
    BitVec.ofNat 32 (leNat [b0, b1, b2, b3]) = (b3 ++ b2 ++ b1 ++ b0 : BitVec (8 + 8 + 8 + 8)) := by
  apply BitVec.eq_of_toNat_eq
  simp only [toNat_append_eq, leNat, BitVec.toNat_ofNat]
  omega

theorem busValue_of_ram {s : State} {a : Addr} (h : refRam a.toNat) :
    busValue s a = (s.readByte (a.toNat + 3) ++ s.readByte (a.toNat + 2) ++ s.readByte (a.toNat + 1)
      ++ s.readByte a.toNat : BitVec (8 + 8 + 8 + 8)) := by
  rw [← ofNat_leNat_four]
  simp only [busValue, regOf_eq_none_of_refRam h]
  rfl

/-- After a RAM write the bytes at its address are those of the word, the least significant first. -/
theorem writeRam_readByte_eq_extractLsb' (a : Addr) (v : Word) (s : State) {j : Nat} (h : j < 4) :
    (writeRam a v s).readByte (a.toNat + j) = v.extractLsb' (8 * j) 8 := by
  rw [writeRam_readByte_inside a v s h, leBytes_getElem]
  apply BitVec.eq_of_toNat_eq
  rw [BitVec.extractLsb'_toNat, BitVec.toNat_ofNat, Nat.shiftRight_eq_div_pow, Nat.pow_mul]

theorem ilv_contains_iff {a : Nat} (h : refRam a) : Region.ilv.contains a = true ↔ a ≤ 0x013FFF := by
  simp only [Region.contains_iff, Region.base, Region.size, Config.nMax]
  omega

theorem step_readRam {s : State} {a : Addr} {rest : List Event} (hev : s.events = .hostRead a :: rest)
    (hidle : s.csr.busy = false) (haligned : a.toNat % 4 = 0) (hram : refRam a.toNat) :
    step s = .next { s with events := rest, reads := busValue s a :: s.reads } := by
  simp only [step_hostRead hev, hostRead, accessCause_withEvents, legal_of_ram false hidle haligned hram]
  rfl

theorem step_writeRam {s : State} {a : Addr} {v : Word} {rest : List Event} (hev : s.events = .hostWrite a v :: rest)
    (hidle : s.csr.busy = false) (haligned : a.toNat % 4 = 0) (hram : refRam a.toNat) :
    step s = .next (writeRam a v { s with events := rest }) := by
  simp only [step_hostWrite hev, hostWrite, accessCause_withEvents, legal_of_ram true hidle haligned hram, busStore,
    regOf_eq_none_of_refRam hram]

/-- Settles O52: in IDLE an aligned RAM access reaches the memory, whose bytes are in little-endian order. -/
theorem ramAccessesMoveFourBytes : Obligations.RamAccessesMoveFourBytes := by
  intro s a v rest hidle haligned hram
  constructor
  · intro hread
    rw [step_readRam hread hidle haligned hram, busValue_of_ram hram]
  · intro hwrite
    refine ⟨_, step_writeRam hwrite hidle haligned hram, rfl, rfl, ?_, fun j hj => ?_, fun x hx => ?_⟩
    · simp only [writeRam_csr, ilv_contains_iff hram]
      split <;> rfl
    · exact writeRam_readByte_eq_extractLsb' a v _ hj
    · exact writeRam_readByte_outside a v _ hx

end Sys2Proof.Machine
end

section
/-! SUPPORT. The output of each command: its length in bytes, that DST_LEN counts its elements, and that it fits in DST. -/

namespace Sys2Proof.Machine

/-- The output of an effect is `n` elements of `size` bytes, DST_LEN says so, and the DST region has room for them. -/
structure Effect.Writes (e : Effect) (size n : Nat) : Prop where
  length : e.dst.length = n * size
  counted : e.csr.dstLen = BitVec.ofNat 32 n
  room : n * size ≤ 0x100000

/-- The size in bytes of an element of a command's output (20_memory.md R92). -/
def elementSize (i : Instr) : Nat := if i = .amod ∨ i = .qmod then 8 else 1

/-- DST_LEN counts the elements exactly: an output that DST has room for has a 32-bit count. -/
theorem Effect.Writes.length_eq {e : Effect} {size n : Nat} (h : e.Writes size n) (hsize : 1 ≤ size) :
    e.dst.length = e.csr.dstLen.toNat * size := by
  have hcount : n ≤ n * size := Nat.le_mul_of_pos_right n hsize
  have hroom := h.room
  rw [h.length, h.counted, BitVec.toNat_ofNat, Nat.mod_eq_of_lt (by omega)]

/-! Checks that pass (60_exceptions.md R331, R332). -/

theorem frameLenLegal_iff (s : State) : s.csr.frameLenLegal = true ↔ frameLegal s := by
  simp only [Csr.frameLenLegal, Bool.and_eq_true, decide_eq_true_eq]
  rfl

theorem frameLenCheck_eq_none_iff {s : State} : frameLenCheck s = none ↔ frameLegal s := by
  rw [← frameLenLegal_iff, frameLenCheck]
  simp

theorem frameLegal_of_rscConfigCheck {s : State} (h : rscConfigCheck s = none) : frameLegal s := by
  unfold rscConfigCheck at h
  split_ifs at h with hframe
  exact (frameLenLegal_iff s).mp hframe

theorem frameLegal_of_interleaverCheck {s : State} (h : interleaverCheck s = none) : frameLegal s :=
  frameLenCheck_eq_none_iff.mp ((Option.orElse_eq_none _ _).mp h).1

theorem qpskConfigCheck_eq_none_iff {s : State} : qpskConfigCheck s = none ↔ qpskOk s := by
  have htaps : Config.tapMax = 1024 := rfl
  unfold qpskConfigCheck qpskOk
  split_ifs <;> simp <;> omega

/-! The lengths of the sequences TDEC and QMOD build. -/

theorem nextPrior_length (r : Received) (prior : List F64) : (nextPrior r prior).length = prior.length := by
  simp [nextPrior]

theorem lastLlr_length {r : Received} {n : Nat} (hsys : r.rs.length = n) (hpar : r.rp1.length = n) (iters : Nat) :
    ∀ prior, prior.length = n → (lastLlr r (iters + 1) prior).length = n := by
  induction iters with
  | zero => intro prior hprior; simp [lastLlr, simpLlr, sysComponent, hsys, hpar, hprior]
  | succ k ih => intro prior hprior; exact ih _ (by rw [nextPrior_length, hprior])

theorem turboDecode_length {r : Received} {n iters : Nat} (hsys : r.rs.length = n) (hpar : r.rp1.length = n)
    (hiters : 1 ≤ iters) : (turboDecode r n iters).length = n := by
  obtain ⟨k, rfl⟩ := Nat.exists_eq_add_of_le' hiters
  simp [turboDecode, decideBits, lastLlr_length hsys hpar k]

/-- The signal QMOD makes of FL bits has `Ls = (FL / 2)·SPS + NT − 1` samples (45_qpsk_modem.md R272). -/
theorem qpskModulate_length {s : State} (hsps : 1 ≤ s.sps) :
    (qpskModulate (s.table .tap s.nt) (s.table .qcos s.signalLen) (s.table .qsin s.signalLen) s.sps
      (s.srcBits s.fl)).length = s.signalLen := by
  simp [qpskModulate, mixUp, upsample_length _ hsps, symbolsRe_length, symbolsIm_length, State.signalLen, State.symbols]

theorem qpskDemodulate_length (s : State) : s.qpskDemodulate.length = 2 * s.symbols := by
  simp [State.qpskDemodulate, List.length_flatMap, slice, Nat.mul_comm]

/-! What each command writes, when its checks pass. -/

section
variable {s : State}

theorem nopEffect_writes : (nopEffect s).Writes 1 0 := ⟨rfl, rfl, by decide⟩

theorem ilvchkEffect_writes : (ilvchkEffect s).Writes 1 0 := ⟨rfl, rfl, by decide⟩

theorem crcEffect_writes : (crcEffect s).Writes 1 0 := ⟨rfl, rfl, by decide⟩

theorem packEffect_writes (h : packCheck s = none) : (packEffect s).Writes 1 (s.srcLen / 8) := by
  have hbuf : Config.bufBytes = 0x100000 := rfl
  unfold packCheck at h
  split_ifs at h
  exact ⟨by simp [packEffect, packBits_length], rfl, by omega⟩

theorem unpackEffect_writes (h : unpackCheck s = none) : (unpackEffect s).Writes 1 (8 * s.srcLen) := by
  have hbuf : Config.bufBytes = 0x100000 := rfl
  unfold unpackCheck at h
  split_ifs at h
  exact ⟨by simp [unpackEffect], rfl, by omega⟩

theorem rscencEffect_writes (h : rscencCheck s = none) : (rscencEffect s).Writes 1 (2 * s.frameN) := by
  have hframe := frameLegal_of_rscConfigCheck ((Option.orElse_eq_none _ _).mp h).1
  exact ⟨by simp [rscencEffect, State.rscRun, rsc, Nat.two_mul], rfl, by omega⟩

theorem ilvEffect_writes (h : interleaverCheck s = none) : (ilvEffect s).Writes 1 s.frameN := by
  have hframe := frameLegal_of_interleaverCheck h
  exact ⟨by simp [ilvEffect], rfl, by omega⟩

theorem dilvEffect_writes (h : interleaverCheck s = none) : (dilvEffect s).Writes 1 s.frameN := by
  have hframe := frameLegal_of_interleaverCheck h
  exact ⟨by simp [dilvEffect], rfl, by omega⟩

theorem tencEffect_writes (h : tencCheck s = none) : (tencEffect s).Writes 1 (3 * s.frameN) := by
  have hframe := frameLegal_of_rscConfigCheck ((Option.orElse_eq_none _ _).mp h).1
  refine ⟨?_, rfl, by omega⟩
  simp only [tencEffect, State.rscRun, rsc, bitsToCells_length, List.length_append, State.srcBits_length,
    rscParities_length, interleave_length, State.perm_length]
  omega

theorem iter_pos_and_frameLegal_of_tdecCheck {iter : BitVec 8} (h : tdecCheck iter s = none) :
    1 ≤ iter.toNat ∧ frameLegal s := by
  unfold tdecCheck at h
  split at h
  · cases h
  · next hword =>
    simp only [not_not, Instr.wellFormed, Bool.and_eq_true, decide_eq_true_eq] at hword
    exact ⟨hword.1, frameLenCheck_eq_none_iff.mp ((Option.orElse_eq_none _ _).mp h).1⟩

theorem tdecEffect_writes {iter : BitVec 8} (h : tdecCheck iter s = none) : (tdecEffect iter s).Writes 1 s.frameN := by
  obtain ⟨hiter, hframe⟩ := iter_pos_and_frameLegal_of_tdecCheck h
  refine ⟨?_, rfl, by omega⟩
  simp [tdecEffect, turboDecode_length (r := s.received) (n := s.frameN) (by simp [State.received])
    (by simp [State.received]) hiter]

theorem fbuildEffect_writes (h : fbuildCheck s = none) : (fbuildEffect s).Writes 1 (s.srcLen + 48) := by
  have hpayload : Config.payloadMax = 65535 := rfl
  unfold fbuildCheck at h
  split_ifs at h
  refine ⟨?_, rfl, by omega⟩
  simp only [fbuildEffect, buildFrame, frameBody, packBits_length, State.srcBits_length, bitsToCells_length,
    unpackBytes_length, List.length_append, beBytes_length]
  omega

/-- A frame that passes the content checks holds its declared payload and six bytes more (46_framer.md R303). -/
theorem framePayload_length {p : CrcParams} {hdr : BitVec 16} {f : List Byte} (h : frameCheck p hdr f = none) :
    (framePayload f).length = (beField f 2).toNat ∧ (beField f 2).toNat + 6 ≤ f.length := by
  unfold frameCheck at h
  split_ifs at h
  simp only [framePayload, List.length_take, List.length_drop]
  omega

theorem fparseEffect_writes (h : fparseCheck s = none) :
    (fparseEffect s).Writes 1 (8 * (beField (packBits (s.srcBits s.srcLen)) 2).toNat) := by
  have hbuf : Config.bufBytes = 0x100000 := rfl
  unfold fparseCheck at h
  split_ifs at h
  obtain ⟨hlength, hfits⟩ := framePayload_length ((Option.orElse_eq_none _ _).mp h).2
  rw [packBits_length, State.srcBits_length] at hfits
  exact ⟨by simp [fparseEffect, hlength], rfl, by omega⟩

theorem amodEffect_writes (h : amodCheck s = none) : (amodEffect s).Writes 8 (s.srcLen * s.spb) := by
  have hbuf : Config.bufBytes = 0x100000 := rfl
  unfold amodCheck at h
  split_ifs at h with _ _ hroom
  rw [Nat.mul_assoc] at hroom
  refine ⟨?_, rfl, by omega⟩
  simp [amodEffect, f64Bytes_length, askModulate_length, Nat.mul_comm]

theorem ademEffect_writes (h : ademCheck s = none) : (ademEffect s).Writes 1 (s.srcLen / s.spb) := by
  have hbuf : Config.bufBytes = 0x100000 := rfl
  have hle : s.srcLen / s.spb ≤ s.srcLen := Nat.div_le_self _ _
  unfold ademCheck at h
  split_ifs at h
  exact ⟨by simp [ademEffect], rfl, by omega⟩

theorem qmodEffect_writes (h : qmodCheck s = none) : (qmodEffect s).Writes 8 s.signalLen := by
  have hcar : Config.qcarMax = 131072 := rfl
  obtain ⟨hconfig, hsizes⟩ := (Option.orElse_eq_none _ _).mp h
  obtain ⟨hsps, -⟩ := qpskConfigCheck_eq_none_iff.mp hconfig
  split_ifs at hsizes
  refine ⟨?_, rfl, by omega⟩
  simp [qmodEffect, f64Bytes_length, qpskModulate_length hsps, Nat.mul_comm]

theorem qdemEffect_writes (h : qdemCheck s = none) : (qdemEffect s).Writes 1 s.fl := by
  have hbuf : Config.bufBytes = 0x100000 := rfl
  obtain ⟨hconfig, hrest⟩ := (Option.orElse_eq_none _ _).mp h
  obtain ⟨-, ⟨heven, -⟩, -⟩ := qpskConfigCheck_eq_none_iff.mp hconfig
  obtain ⟨-, hsizes⟩ := (Option.orElse_eq_none _ _).mp hrest
  split_ifs at hsizes
  all_goals
    refine ⟨?_, rfl, by omega⟩
    simp only [qdemEffect, bitsToCells_length, qpskDemodulate_length, State.symbols]
    omega

end

/-- A command whose checks pass writes elements of its size, as many as DST_LEN then says. -/
theorem commandEffect_writes {i : Instr} {s : State} (h : failingCheck i s = none) :
    ∃ n, (commandEffect i s).Writes (elementSize i) n := by
  cases i with
  | nop => exact ⟨_, nopEffect_writes⟩
  | ilvchk => exact ⟨_, ilvchkEffect_writes⟩
  | pack => exact ⟨_, packEffect_writes h⟩
  | unpack => exact ⟨_, unpackEffect_writes h⟩
  | rscenc => exact ⟨_, rscencEffect_writes h⟩
  | ilv => exact ⟨_, ilvEffect_writes h⟩
  | dilv => exact ⟨_, dilvEffect_writes h⟩
  | tenc => exact ⟨_, tencEffect_writes h⟩
  | tdec iter => exact ⟨_, tdecEffect_writes h⟩
  | crc => exact ⟨_, crcEffect_writes⟩
  | fbuild => exact ⟨_, fbuildEffect_writes h⟩
  | fparse => exact ⟨_, fparseEffect_writes h⟩
  | amod => exact ⟨_, amodEffect_writes h⟩
  | adem => exact ⟨_, ademEffect_writes h⟩
  | qmod => exact ⟨_, qmodEffect_writes h⟩
  | qdem => exact ⟨_, qdemEffect_writes h⟩

end Sys2Proof.Machine
end

section
/-! 20_memory.md settled for commands and steps: a command writes its output only, every step keeps the memory's form. -/

namespace Sys2Proof.Machine

/-! What a command leaves in memory. -/

theorem elementSize_pos (i : Instr) : 1 ≤ elementSize i := by
  unfold elementSize
  split <;> decide

/-- A command leaves memory alone, or writes from DST byte 0 upwards the elements DST_LEN counts, which fit in DST. -/
theorem exec_memory_cases {i : Instr} {s t : State} (h : exec i s = .next t) :
    (t.csr.dstLen = 0 ∧ t.ram = s.ram ∧ ∀ a, t.readByte a = s.readByte a) ∨
    ∃ e : Effect, e.dst.length = t.csr.dstLen.toNat * elementSize i ∧ e.dst.length ≤ 0x100000 ∧ t = completeOk e s := by
  rcases exec_cases i s with ⟨hpass, hok⟩ | ⟨e, -, herr⟩
  · obtain ⟨n, hwrites⟩ := commandEffect_writes hpass
    cases hok.symm.trans h
    exact .inr ⟨commandEffect i s, hwrites.length_eq (elementSize_pos i), hwrites.length ▸ hwrites.room, rfl⟩
  · cases herr.symm.trans h
    refine .inl ⟨rfl, ?_⟩
    split <;> exact ⟨rfl, fun _ => rfl⟩

/-- Settles O39: a command that fails writes nothing and leaves DST_LEN = 0, one that succeeds writes the bytes DST_LEN
counts. -/
theorem commandsWriteOnlyTheirOutput : Obligations.CommandsWriteOnlyTheirOutput := by
  intro i s t h
  change t.csr.dstLen.toNat * elementSize i ≤ 0x100000 ∧
    ∀ a, (a < Region.dst.base ∨ Region.dst.base + t.csr.dstLen.toNat * elementSize i ≤ a) → t.readByte a = s.readByte a
  rcases exec_memory_cases h with ⟨hzero, -, hkeep⟩ | ⟨e, hlength, hroom, rfl⟩
  · exact ⟨by simp [hzero], fun a _ => hkeep a⟩
  · rw [← hlength]
    exact ⟨hroom, fun a ha => completeOk_readByte_outside e s ha⟩

/-! The canonical form and RAM addresses (20_memory.md R91, R92, R96). -/

theorem Memory.inRam_iff (m : Memory) : m.inRam = true ↔ ∀ c ∈ m.cells, refRam c.1 := by
  simp only [Memory.inRam, List.all_eq_true, regionOf_isSome_iff]

/-- A write to RAM addresses keeps the canonical form and RAM addresses. -/
theorem memoryKept_of_write {s t : State} {a : Nat} {bytes : List Byte} (h : s.memoryKept)
    (hram : ∀ x, a ≤ x → x < a + bytes.length → refRam x) (ht : t.ram = s.ram.write a bytes) : t.memoryKept := by
  obtain ⟨hwf, hin⟩ := h
  rw [Memory.inRam_iff] at hin
  rw [State.memoryKept, ht, Memory.inRam_iff]
  refine ⟨Memory.wf_write hwf a bytes, fun c hc => ?_⟩
  rcases Memory.mem_write hc with hold | ⟨hge, hlt⟩
  · exact hin c hold
  · exact hram c.1 hge hlt

theorem memoryKept_of_forget {s t : State} {a n : Nat} (h : s.memoryKept) (ht : t.ram = s.ram.forget a n) :
    t.memoryKept := by
  obtain ⟨hwf, hin⟩ := h
  rw [Memory.inRam_iff] at hin
  rw [State.memoryKept, ht, Memory.inRam_iff]
  exact ⟨Memory.wf_forget hwf a n, fun c hc => hin c (Memory.mem_forget hc)⟩

theorem memoryKept_of_ram_eq {s t : State} (h : s.memoryKept) (ht : t.ram = s.ram) : t.memoryKept := by
  rwa [State.memoryKept, ht]

theorem memoryKept_of_empty {t : State} (ht : t.ram = ⟨[]⟩) : t.memoryKept := by
  rw [State.memoryKept, ht]
  exact ⟨Memory.wf_empty, rfl⟩

theorem memoryKept_exec {i : Instr} {s t : State} (h : s.memoryKept) (hrun : exec i s = .next t) : t.memoryKept := by
  rcases exec_memory_cases hrun with ⟨-, hram, -⟩ | ⟨e, -, hroom, rfl⟩
  · exact memoryKept_of_ram_eq h hram
  · refine memoryKept_of_write h (fun x hge hlt => ?_) (completeOk_ram e s)
    simp only [Region.base] at hge hlt
    omega

theorem memoryKept_sequencerTurn {s t : State} (h : s.memoryKept) (hturn : sequencerTurn s = .next t) : t.memoryKept := by
  rcases sequencerTurn_cases s with ⟨-, hidle⟩ | ⟨-, i, -, hrun⟩ | ⟨-, e, -, hillegal⟩
  · cases hidle.symm.trans hturn
    exact h
  · exact memoryKept_exec h (hrun.symm.trans hturn)
  · cases hillegal.symm.trans hturn
    exact h

theorem memoryKept_hostRead {s : State} (h : s.memoryKept) (a : Addr) : (hostRead a s).memoryKept := by
  rcases hostRead_cases a s with ⟨cause, -, hread⟩ | ⟨-, hread⟩ <;> rw [hread] <;> exact h

theorem memoryKept_softReset {s : State} (h : s.memoryKept) : (softReset s).memoryKept := by
  have hram := softReset_ram s
  split at hram
  · exact memoryKept_of_forget h hram
  · exact memoryKept_of_ram_eq h hram

/-- A legal RAM write is aligned, so its four bytes lie in the region its address lies in. -/
theorem memoryKept_writeRam {s : State} (h : s.memoryKept) {a : Addr} (v : Word) (haligned : a.toNat % 4 = 0)
    (hram : refRam a.toNat) : (writeRam a v s).memoryKept := by
  refine memoryKept_of_write h (fun x hge hlt => ?_) (writeRam_ram a v s)
  rw [leBytes_length] at hlt
  omega

theorem memoryKept_hostWrite {s : State} (h : s.memoryKept) (a : Addr) (v : Word) : (hostWrite a v s).memoryKept := by
  rcases hostWrite_cases a v s with
    ⟨cause, -, hwrite⟩ | ⟨hlegal, ⟨-, hwrite⟩ | ⟨-, hwrite⟩ | ⟨r, -, -, -, hwrite⟩ | ⟨hreg, hwrite⟩⟩
  all_goals rw [hwrite]
  · exact h
  · unfold writeCtrl
    split
    · exact memoryKept_softReset h
    · exact h
  · unfold writeCmd
    split <;> exact h
  · exact h
  · obtain ⟨haligned, hram⟩ := ram_of_legal hreg hlegal
    exact memoryKept_writeRam h v haligned hram

/-- Settles O41: memory changes only by a command's output in DST, by a legal RAM write and by a reset, which forgets. -/
theorem stepKeepsMemoryForm : Obligations.StepKeepsMemoryForm := by
  intro s t h hstep
  have hrest (es : List Event) : ({ s with events := es } : State).memoryKept := h
  rcases step_cases s with ⟨-, hs⟩ | ⟨es, -, hs⟩ | ⟨a, es, -, hs⟩ | ⟨a, v, es, -, hs⟩ | ⟨es, -, hs⟩
  · exact memoryKept_sequencerTurn h (hs.symm.trans hstep)
  · exact memoryKept_sequencerTurn (hrest es) (hs.symm.trans hstep)
  all_goals cases hs.symm.trans hstep
  · exact memoryKept_hostRead (hrest es) a
  · exact memoryKept_hostWrite (hrest es) a v
  · exact memoryKept_of_empty rfl

end Sys2Proof.Machine
end

section
/-! 30_encoding.md settled: the decoder accepts the words of the well-formed commands, a word is legal by its fields,
an illegal word completes with itself. -/

namespace Sys2Proof

/-! Decoding an encoded command (30_encoding.md R130, R133). -/

theorem encode_fields (i : Instr) :
    cmdRsv (encode i) = 0 ∧ cmdOp (encode i) = i.opcode ∧ cmdArg (encode i) = i.arg := by
  have hfields : Laws.EncodedFields.Statement i := by
    cases i with
    | nop => exact Laws.EncodedFields.nop
    | ilvchk => exact Laws.EncodedFields.ilvchk
    | pack => exact Laws.EncodedFields.pack
    | unpack => exact Laws.EncodedFields.unpack
    | rscenc => exact Laws.EncodedFields.rscenc
    | ilv => exact Laws.EncodedFields.ilv
    | dilv => exact Laws.EncodedFields.dilv
    | tenc => exact Laws.EncodedFields.tenc
    | tdec iter => exact Laws.EncodedFields.tdec iter
    | crc => exact Laws.EncodedFields.crc
    | fbuild => exact Laws.EncodedFields.fbuild
    | fparse => exact Laws.EncodedFields.fparse
    | amod => exact Laws.EncodedFields.amod
    | adem => exact Laws.EncodedFields.adem
    | qmod => exact Laws.EncodedFields.qmod
    | qdem => exact Laws.EncodedFields.qdem
  obtain ⟨hrsv, hop, harg, -⟩ := hfields
  exact ⟨hrsv, hop, harg⟩

/-- The opcode map finds every command, well formed or not, at its own OP and ARG (R132). -/
theorem opcodeMap_opcode_arg (i : Instr) : opcodeMap i.opcode i.arg = some i := by
  cases i <;> rfl

/-- The word of a command decodes to it, unless it is a TDEC whose iteration count is out of range. -/
theorem decode_encode (i : Instr) :
    decode (encode i) = if i.wellFormed then .ok i else .error .iterOutOfRange := by
  obtain ⟨hrsv, hop, harg⟩ := encode_fields i
  rw [decode, if_neg (not_not.mpr hrsv), hop, harg, opcodeMap_opcode_arg]
  cases i <;> rfl

theorem decode_encode_of_wellFormed {i : Instr} (hwf : i.wellFormed = true) : decode (encode i) = .ok i := by
  rw [decode_encode, if_pos hwf]

/-- Settles O1: a word that decodes is the encoding of its command, so both directions are about `decode (encode i)`. -/
theorem decodeAcceptsExactlyEncodedCommands : Obligations.DecodeAcceptsExactlyEncodedCommands := by
  refine fun w i => ⟨fun hdecode => ?_, ?_⟩
  · obtain rfl := Machine.eq_encode_of_decode hdecode
    rw [decode_encode] at hdecode
    split at hdecode
    · next hwf => exact ⟨hwf, rfl⟩
    · cases hdecode
  · rintro ⟨hwf, rfl⟩
    exact decode_encode_of_wellFormed hwf

/-! The fields of a command word as numbers (R130, R131). -/

theorem encode_toNat (i : Instr) : (encode i).toNat = i.arg.toNat * 0x100 + i.opcode.toNat := by
  have hop : i.opcode.toNat < 2 ^ 8 := i.opcode.isLt
  rw [encode, BitVec.toNat_append, BitVec.toNat_append, ← Nat.shiftLeft_add_eq_or_of_lt hop]
  simp [Nat.shiftLeft_eq]

/-- A word is the encoding of a command exactly when its three fields are. -/
theorem encode_eq_iff {i : Instr} {w : Word} : encode i = w ↔
    w.toNat / 0x10000 = 0 ∧ w.toNat / 0x100 % 0x100 = i.arg.toNat ∧ w.toNat % 0x100 = i.opcode.toNat := by
  have harg : i.arg.toNat < 0x100 := i.arg.isLt
  have hop : i.opcode.toNat < 0x100 := i.opcode.isLt
  rw [← BitVec.toNat_inj, encode_toNat]
  omega

/-- The fifteen commands without an operand of their own (R131). -/
def plainCommands : List Instr :=
  [.nop, .ilvchk, .pack, .unpack, .rscenc, .ilv, .dilv, .tenc, .crc, .fbuild, .fparse, .amod, .adem, .qmod, .qdem]

theorem mem_plainCommands_or_tdec (i : Instr) : i ∈ plainCommands ∨ ∃ iter, i = .tdec iter := by
  cases i with
  | tdec iter => exact .inr ⟨iter, rfl⟩
  | _ => exact .inl (by decide)

theorem wellFormed_and_arg_of_plain : ∀ i ∈ plainCommands, i.wellFormed = true ∧ i.arg = 0 := by decide

theorem tdec_wellFormed_iff {iter : BitVec 8} : (Instr.tdec iter).wellFormed = true ↔ 1 ≤ iter.toNat := by
  have hmax : iter.toNat ≤ Config.iterMax := Nat.le_of_lt_succ iter.isLt
  simp [Instr.wellFormed, hmax]

/-- Settles O2: the legal words are those with the fields of a command without operand, or of a TDEC that has one. -/
theorem legalWordsByFields : Obligations.LegalWordsByFields := by
  intro w
  simp only [decodeAcceptsExactlyEncodedCommands w, encode_eq_iff]
  change _ ↔ _ ∧ ((_ ∧ _ ∈ plainCommands.map fun i => i.opcode.toNat) ∨ _)
  rw [List.mem_map]
  constructor
  · rintro ⟨i, hwf, hrsv, harg, hop⟩
    refine ⟨hrsv, ?_⟩
    rcases mem_plainCommands_or_tdec i with hplain | ⟨iter, rfl⟩
    · obtain ⟨-, hzero⟩ := wellFormed_and_arg_of_plain i hplain
      exact .inl ⟨by rw [harg, hzero]; rfl, i, hplain, hop.symm⟩
    · exact .inr ⟨harg ▸ tdec_wellFormed_iff.mp hwf, hop⟩
  · rintro ⟨hrsv, ⟨harg, i, hplain, hop⟩ | ⟨harg, hop⟩⟩
    · obtain ⟨hwf, hzero⟩ := wellFormed_and_arg_of_plain i hplain
      exact ⟨i, hwf, hrsv, by rw [harg, hzero]; rfl, hop.symm⟩
    · have hiter : (BitVec.ofNat 8 (w.toNat / 0x100)).toNat = w.toNat / 0x100 % 0x100 := BitVec.toNat_ofNat ..
      exact ⟨.tdec (BitVec.ofNat 8 (w.toNat / 0x100)), tdec_wellFormed_iff.mpr (hiter ▸ harg), hrsv, hiter.symm, hop⟩

/-- Settles O3: the legal words listed are encodings of well-formed commands, the others break a clause on fields. -/
theorem listedWordsDecode : Obligations.ListedWordsDecode := by
  have hlegal (i : Instr) (hwf : i.wellFormed = true) : decode (encode i) = .ok i := decode_encode_of_wellFormed hwf
  have hillegal (w : Word) := fun hfields => not_exists.mp (mt (legalWordsByFields w).mp hfields)
  exact ⟨hlegal .nop rfl, hlegal .ilvchk rfl, hlegal .pack rfl, hlegal .unpack rfl, hlegal .rscenc rfl, hlegal .ilv rfl,
    hlegal .dilv rfl, hlegal .tenc rfl, hlegal .crc rfl, hlegal .fbuild rfl, hlegal .fparse rfl, hlegal .amod rfl,
    hlegal .adem rfl, hlegal .qmod rfl, hlegal .qdem rfl, hlegal (.tdec 6) rfl, hlegal (.tdec 1) rfl,
    hillegal 0x00000018 (by decide), hillegal 0x00000113 (by decide), hillegal 0x00010000 (by decide)⟩

end Sys2Proof

namespace Sys2Proof.Machine

/-! Completion of an illegal word (R133, 60_exceptions.md R330). -/

theorem sequencerTurn_of_illegal {s : State} (hbusy : s.csr.busy = true)
    (hillegal : ∀ i, decode s.csr.lastCmd ≠ .ok i) : sequencerTurn s = .next (completeIllegal s) := by
  rcases sequencerTurn_cases s with ⟨hidle, -⟩ | ⟨-, i, hdecode, -⟩ | ⟨-, e, -, hturn⟩
  · simp [hbusy] at hidle
  · exact absurd hdecode (hillegal i)
  · exact hturn

/-- Settles O5: the turn of a BUSY sequencer with an illegal word is that word's completion. -/
theorem illegalWordCompletesWithItself : Obligations.IllegalWordCompletesWithItself := by
  intro s rest hbusy hevents hillegal
  have hturn : step s = sequencerTurn { s with events := rest } := by rw [step, hevents]; rfl
  exact hturn.trans (sequencerTurn_of_illegal (s := { s with events := rest }) hbusy hillegal)

/-- The error of the first failing check is the error of the command; ILVCHK changes ILV_VALID with it. -/
theorem failsWith_of_failingCheck {i : Instr} {s : State} {e : CmdError} (hi : i ≠ .ilvchk)
    (h : failingCheck i s = some e) : FailsWith i s e.kind.code e.info := by
  have hexec := exec_err h
  rw [if_neg hi] at hexec
  exact ⟨completeErr e s, hexec, rfl, completeErr_readByte e s, rfl, rfl, rfl, rfl, rfl⟩

theorem failingCheck_tdec_of_illFormed {iter : BitVec 8} (s : State) (h : ¬ (Instr.tdec iter).wellFormed = true) :
    failingCheck (.tdec iter) s = some ⟨.illegalCommand, s.csr.lastCmd⟩ :=
  if_pos h

/-- Settles O17: `tdec 0` is not well formed, which is TDEC's first check. -/
theorem illFormedTdecCompletesAsIllegal : Obligations.IllFormedTdecCompletesAsIllegal := fun s =>
  failsWith_of_failingCheck (by decide) (failingCheck_tdec_of_illFormed s (by decide))

end Sys2Proof.Machine
end

section
/-! 40_control.md settled: NOP completes with no data effect. -/

namespace Sys2Proof.Machine

/-- A command whose checks pass completes with the register file and the bytes of its effect. -/
theorem completesWith_of_effect {i : Instr} {s : State} {n : Nat} {out : Nat → Byte}
    (hpass : failingCheck i s = none) (hwrites : (commandEffect i s).Writes 1 n)
    (hout : ∀ j (hj : j < (commandEffect i s).dst.length), (commandEffect i s).dst[j] = out j) :
    CompletesWith i s n out (commandEffect i s).csr := by
  have hlength : (commandEffect i s).dst.length = n := by simpa using hwrites.length
  subst hlength
  refine ⟨completeOk (commandEffect i s) s, exec_ok hpass, completeOk_csr .., fun j hj => ?_, fun a ha => ?_,
    rfl, rfl, rfl, rfl, rfl⟩
  · exact (completeOk_readByte_inside _ s hj).trans (hout j hj)
  · exact completeOk_readByte_outside _ s ha

/-- Settles O8: NOP has no check to fail, and its effect writes no byte and clears DST_LEN. -/
theorem nopCompletes : Obligations.NopCompletes := by
  intro s
  have hpass : failingCheck .nop s = none := rfl
  have hnoByte (j : Nat) (hj : j < (commandEffect .nop s).dst.length) : (commandEffect .nop s).dst[j] = 0 :=
    absurd hj (Nat.not_lt_zero j)
  exact completesWith_of_effect hpass nopEffect_writes hnoByte

end Sys2Proof.Machine
end

section
/-! SUPPORT. The BitFrame conversions on eight bits and on sequences given by index, and the scan for a non-binary cell
of SRC. -/

namespace Sys2Proof.Machine

/-! Eight bits and a byte (41_bitframe.md R170, R171). -/

/-- The shifted-and-joined form of R170, over the cells of the bits. -/
theorem byteOfBits_eq_or_shifts (b0 b1 b2 b3 b4 b5 b6 b7 : Bool) :
    byteOfBits b0 b1 b2 b3 b4 b5 b6 b7 =
      (bitCell b0 <<< 7) ||| (bitCell b1 <<< 6) ||| (bitCell b2 <<< 5) ||| (bitCell b3 <<< 4)
        ||| (bitCell b4 <<< 3) ||| (bitCell b5 <<< 2) ||| (bitCell b6 <<< 1) ||| bitCell b7 := by
  revert b0 b1 b2 b3 b4 b5 b6 b7
  decide

@[simp] theorem byteBits_byteOfBits (b0 b1 b2 b3 b4 b5 b6 b7 : Bool) :
    byteBits (byteOfBits b0 b1 b2 b3 b4 b5 b6 b7) = [b0, b1, b2, b3, b4, b5, b6, b7] := by
  revert b0 b1 b2 b3 b4 b5 b6 b7
  decide

/-- A byte is determined by its eight bits. -/
theorem byteBits_injective : Function.Injective byteBits := by
  intro x y h
  refine BitVec.eq_of_getLsbD_eq fun i hi => ?_
  simp only [byteBits, List.cons.injEq] at h
  obtain ⟨h7, h6, h5, h4, h3, h2, h1, h0, -⟩ := h
  interval_cases i <;> assumption

theorem byteOfBits_getLsbD (y : Byte) :
    byteOfBits (y.getLsbD 7) (y.getLsbD 6) (y.getLsbD 5) (y.getLsbD 4) (y.getLsbD 3) (y.getLsbD 2) (y.getLsbD 1)
      (y.getLsbD 0) = y :=
  byteBits_injective (byteBits_byteOfBits ..)

/-- The cell of bit `k` of a byte, as R171 shifts and masks it. -/
theorem bitCell_getLsbD (y : Byte) (k : Nat) : bitCell (y.getLsbD k) = (y >>> k) &&& 1 := by
  have hcell (b : Bool) : bitCell b = (BitVec.ofBool b).setWidth 8 := by cases b <;> rfl
  have hmask : (y >>> k) &&& 1 = (BitVec.ofBool ((y >>> k).getLsbD 0)).setWidth 8 :=
    BitVec.and_one_eq_setWidth_ofBool_getLsbD
  rw [hmask, hcell, BitVec.getLsbD_ushiftRight, Nat.add_zero]

/-! Sequences (R170, R171). -/

theorem unpackBytes_cons (y : Byte) (ys : List Byte) : unpackBytes (y :: ys) = byteBits y ++ unpackBytes ys :=
  List.flatMap_cons

theorem packBits_byteBits_append (y : Byte) (bs : List Bool) : packBits (byteBits y ++ bs) = y :: packBits bs :=
  congrArg (· :: packBits bs) (byteOfBits_getLsbD y)

theorem unpackBytes_packBits : ∀ bs : List Bool, bs.length % 8 = 0 → unpackBytes (packBits bs) = bs
  | b0 :: b1 :: b2 :: b3 :: b4 :: b5 :: b6 :: b7 :: rest, halign => by
    have hrest : rest.length % 8 = 0 := by rw [← Nat.add_mod_right]; exact halign
    simp [packBits, unpackBytes_cons, unpackBytes_packBits rest hrest]
  | [], _ => rfl
  | [_], halign | [_, _], halign | [_, _, _], halign | [_, _, _, _], halign | [_, _, _, _, _], halign
  | [_, _, _, _, _, _], halign | [_, _, _, _, _, _, _], halign => by simp at halign

theorem packBits_unpackBytes (ys : List Byte) : packBits (unpackBytes ys) = ys := by
  induction ys with
  | nil => rfl
  | cons y ys ih => rw [unpackBytes_cons, packBits_byteBits_append, ih]

/-- The first eight of `8·(n + 1)` elements given by index, and the others. -/
theorem map_range_eight_mul_succ {α : Type} (f : Nat → α) (n : Nat) : (List.range (8 * (n + 1))).map f =
    f 0 :: f 1 :: f 2 :: f 3 :: f 4 :: f 5 :: f 6 :: f 7 :: (List.range (8 * n)).map (fun i => f (i + 8)) := by
  rw [show 8 * (n + 1) = 8 + 8 * n by omega, List.range_add, List.map_append, List.map_map]
  simp [List.range_succ, Nat.add_comm, Function.comp_def]

/-- Packing bits given by index: byte `j` is made of bits `8j` to `8j + 7`. The bits after the first eight are given by
`f (i + 8)`, and `8·(j + 1) + t` computes to `(8·j + t) + 8`. -/
theorem packBits_map_range (n : Nat) : ∀ f : Nat → Bool, packBits ((List.range (8 * n)).map f) =
    (List.range n).map fun j => byteOfBits (f (8 * j)) (f (8 * j + 1)) (f (8 * j + 2)) (f (8 * j + 3)) (f (8 * j + 4))
      (f (8 * j + 5)) (f (8 * j + 6)) (f (8 * j + 7)) := by
  induction n with
  | zero => intro f; rfl
  | succ n ih =>
    intro f
    rw [map_range_eight_mul_succ, packBits, ih, List.range_succ_eq_map, List.map_cons, List.map_map]
    rfl

/-- Unpacking bytes given by index: cell `i` by the formula of R171. -/
theorem bitsToCells_unpackBytes_map_range (n : Nat) : ∀ f : Nat → Byte,
    bitsToCells (unpackBytes ((List.range n).map f)) = (List.range (8 * n)).map (refUnpacked f) := by
  induction n with
  | zero => intro f; rfl
  | succ n ih =>
    intro f
    have hrest : bitsToCells (unpackBytes ((List.range n).map (f ∘ Nat.succ))) =
        (List.range (8 * n)).map fun i => refUnpacked f (i + 8) := by
      rw [ih]
      refine List.map_congr_left fun i _ => ?_
      simp [refUnpacked]
    rw [map_range_eight_mul_succ, ← hrest, List.range_succ_eq_map, List.map_cons, List.map_map, unpackBytes_cons]
    simp only [bitsToCells, byteBits, List.map_append, List.map_cons, bitCell_getLsbD]
    rfl

/-! The cells of SRC (R172, 60_exceptions.md R330). -/

theorem nonBinaryError_srcBytes_eq_none {s : State} {n : Nat} (kind : ErrKind) (h : binarySrc s n) :
    nonBinaryError kind (s.srcBytes n) = none := by
  rw [nonBinaryError_eq_none_iff]
  intro c hc
  obtain ⟨i, hi, rfl⟩ := (s.mem_srcBytes n c).mp hc
  exact h i hi

theorem nonBinaryError_srcBytes_eq_some {s : State} {n k : Nat} (kind : ErrKind) (h : leastNonBinary s n k) :
    nonBinaryError kind (s.srcBytes n) = some ⟨kind, BitVec.ofNat 32 k⟩ := by
  obtain ⟨hk, hbad, hbefore⟩ := h
  have hscan : firstNonBinary (s.srcBytes n) = some k := by
    rw [firstNonBinary_eq_some_iff]
    exact ⟨by simpa using hk, by simpa [State.srcBytes] using hbad, by simpa [State.srcBytes, binaryCell] using hbefore⟩
  rw [nonBinaryError, hscan, Option.map_some]

/-- The packed cells of SRC, by the formula of R170 once they are known to be binary. -/
theorem packBits_srcBits {s : State} {n : Nat} (hbinary : binarySrc s (8 * n)) :
    packBits (s.srcBits (8 * n)) = (List.range n).map (refPacked s) := by
  rw [State.srcBits, cellsToBits, State.srcBytes, List.map_map, packBits_map_range]
  refine List.map_congr_left fun j hj => ?_
  have hcell (t : Nat) (ht : t < 8 := by decide) : bitCell (cellBit (s.src8 (8 * j + t))) = s.src8 (8 * j + t) := by
    have hjn := List.mem_range.mp hj
    exact bitCell_cellBit (hbinary _ (by omega))
  have hfirst : bitCell (cellBit (s.src8 (8 * j))) = s.src8 (8 * j) := hcell 0
  simp only [byteOfBits_eq_or_shifts, Function.comp_apply, refPacked, hfirst, hcell 1, hcell 2, hcell 3, hcell 4, hcell 5,
    hcell 6, hcell 7]

end Sys2Proof.Machine
end

section
/-! 41_bitframe.md settled: the conversions are inverse, PACK and UNPACK follow their rules. -/

namespace Sys2Proof.Machine

/-- Settles O28: eight bits and a byte convert to and fro, one group after the other. -/
theorem packAndUnpackAreInverse : Obligations.PackAndUnpackAreInverse :=
  ⟨unpackBytes_packBits, packBits_unpackBytes⟩

/-- Settles O10: each check that fails is the first that fails, and the packed bits are the bytes of R170. -/
theorem packFollowsItsRule : Obligations.PackFollowsItsRule := by
  refine ⟨decode_encode_of_wellFormed (i := .pack) rfl, fun s => ⟨?_, fun haligned hfits hbinary => ?_⟩⟩
  · have hfails {e : CmdError} (h : packCheck s = some e) : FailsWith .pack s e.kind.code e.info :=
      failsWith_of_failingCheck (by decide) h
    split_ifs with hunaligned hlarge
    · exact hfails (if_pos hunaligned)
    · exact hfails ((if_neg hunaligned).trans (if_pos hlarge))
    · intro k hleast
      exact hfails (((if_neg hunaligned).trans (if_neg hlarge)).trans (nonBinaryError_srcBytes_eq_some _ hleast))
  · have hpass : packCheck s = none :=
      ((if_neg (not_not.mpr haligned)).trans (if_neg (Nat.not_lt.mpr hfits))).trans
        (nonBinaryError_srcBytes_eq_none _ hbinary)
    have hlength : s.srcLen = 8 * (s.srcLen / 8) := by omega
    have hbytes : (packEffect s).dst = (List.range (s.srcLen / 8)).map (refPacked s) := by
      rw [← packBits_srcBits (hlength ▸ hbinary), ← hlength, packEffect]
    exact completesWith_of_effect hpass (packEffect_writes hpass) fun j hj => by simp [commandEffect, hbytes]

/-- Settles O11: each check that fails is the first that fails, and the unpacked bits are the cells of R171. -/
theorem unpackFollowsItsRule : Obligations.UnpackFollowsItsRule := by
  refine ⟨decode_encode_of_wellFormed (i := .unpack) rfl, fun s => ⟨?_, fun hfits => ?_⟩⟩
  · have hfails {e : CmdError} (h : unpackCheck s = some e) : FailsWith .unpack s e.kind.code e.info :=
      failsWith_of_failingCheck (by decide) h
    split_ifs with hlarge
    · exact hfails (if_pos hlarge)
    · intro hlargeOutput
      rw [← sat32_of_lt (by omega)]
      exact hfails ((if_neg hlarge).trans (if_pos hlargeOutput))
  · have hsmall : ¬ Config.bufBytes < s.srcLen := Nat.not_lt.mpr ((Nat.le_mul_of_pos_left _ (by decide)).trans hfits)
    have hpass : unpackCheck s = none := (if_neg hsmall).trans (if_neg (Nat.not_lt.mpr hfits))
    have hcells : (unpackEffect s).dst = (List.range (8 * s.srcLen)).map (refUnpacked s.src8) :=
      bitsToCells_unpackBytes_map_range s.srcLen s.src8
    exact completesWith_of_effect hpass (unpackEffect_writes hpass) fun j hj => by simp [commandEffect, hcells]

end Sys2Proof.Machine
end

section
/-! SUPPORT. The RSC encoder: its parity bits, and its states as the recurrence on numbers gives them. -/

namespace Sys2Proof.Machine

/-! The parity (42_turbo_encoder.md R190, R199). -/

/-- The parity bit XORs each tap in twice, so both taps cancel. -/
theorem rscParity_eq_input (a b : Nat) (st : BitVec 15) (x : Bool) : rscParity a b st x = x := by
  rw [rscParity, rscFeedback]
  cases st.getLsbD a <;> cases st.getLsbD b <;> simp

theorem rscParities_eq_input (k a b : Nat) (xs : List Bool) : ∀ st, rscParities k a b st xs = xs := by
  induction xs with
  | nil => intro st; rfl
  | cons x xs ih => intro st; rw [rscParities, rscParity_eq_input, ih]

/-- Both outputs of an encoder run are its input. -/
theorem rscRun_eq_input (s : State) (x : List Bool) : (s.rscRun x).sys = x ∧ (s.rscRun x).par = x :=
  ⟨rfl, rscParities_eq_input _ _ _ x 0⟩

/-! The states (R190). -/

theorem rscFinal_eq_foldl (k a b : Nat) (xs : List Bool) : ∀ st, rscFinal k a b st xs = xs.foldl (rscNext k a b) st := by
  induction xs with
  | nil => intro st; rfl
  | cons x xs ih => intro st; exact ih _

theorem refBit_toNat {w : Nat} (v : BitVec w) (a : Nat) : refBit v.toNat a = (v.getLsbD a).toNat := by
  rw [BitVec.getLsbD, Nat.toNat_testBit, refBit, Nat.shiftRight_eq_div_pow]

/-- A constraint length up to 16 shifts the fed-back bit to bit 14 at most, so the 15-bit register loses nothing. -/
theorem toNat_rscNext {k : Nat} (hk : k ≤ 16) (a b : Nat) (st : BitVec 15) (x : Bool) :
    (rscNext k a b st x).toNat = refRscNext k a b st.toNat x.toNat := by
  have hfed : (x ^^ rscFeedback a b st).toNat = x.toNat ^^^ (refBit st.toNat a ^^^ refBit st.toNat b) := by
    rw [refBit_toNat, refBit_toNat, rscFeedback]
    cases x <;> cases st.getLsbD a <;> cases st.getLsbD b <;> rfl
  have hfits : (x ^^ rscFeedback a b st).toNat <<< (k - 2) < 2 ^ 15 := by
    have hbit : (x ^^ rscFeedback a b st).toNat ≤ 1 := Bool.toNat_le _
    have hshift : 2 ^ (k - 2) ≤ 2 ^ 14 := Nat.pow_le_pow_right two_pos (by omega)
    rw [Nat.shiftLeft_eq]
    calc _ ≤ 1 * 2 ^ 14 := Nat.mul_le_mul hbit hshift
      _ < 2 ^ 15 := by decide
  have hbit : (x ^^ rscFeedback a b st).toNat % 2 ^ 15 = (x ^^ rscFeedback a b st).toNat :=
    Nat.mod_eq_of_lt ((Bool.toNat_lt _).trans (by decide))
  rw [rscNext, BitVec.toNat_or, BitVec.toNat_shiftLeft, BitVec.toNat_ushiftRight, BitVec.toNat_setWidth,
    BitVec.toNat_ofBool, hbit, Nat.mod_eq_of_lt hfits, hfed, refRscNext]

/-- The state of the configured encoder after the first `i` of the cells given by index. -/
def State.rscStateAt (s : State) (x : Nat → Byte) (i : Nat) : BitVec 15 :=
  (s.rscRun ((List.range i).map fun j => cellBit (x j))).final

theorem State.rscStateAt_succ (s : State) (x : Nat → Byte) (i : Nat) : s.rscStateAt x (i + 1) =
    rscNext s.csr.constraintLen.toNat s.csr.tapA.toNat s.csr.tapB.toNat (s.rscStateAt x i) (cellBit (x i)) := by
  simp [State.rscStateAt, State.rscRun, rsc, rscFinal_eq_foldl, List.range_succ]

theorem toNat_cellBit {c : Byte} (h : c = 0 ∨ c = 1) : (cellBit c).toNat = c.toNat := by
  rcases h with rfl | rfl <;> rfl

/-- Over binary cells the encoder's states are those of the recurrence on numbers. -/
theorem refRscRun_rscStateAt {s : State} {n : Nat} {x : Nat → Byte} (hconstraint : constraintOk s)
    (hbinary : ∀ i, i < n → x i = 0 ∨ x i = 1) :
    refRscRun s n (fun i => (x i).toNat) (fun i => (s.rscStateAt x i).toNat) := by
  refine ⟨rfl, fun i hi => ?_⟩
  dsimp only
  rw [State.rscStateAt_succ, toNat_rscNext hconstraint.2, toNat_cellBit (hbinary i hi)]

end Sys2Proof.Machine
end

section
/-! SUPPORT. The interleaver: scattering by index, and the ILV table read as a permutation. -/

namespace Sys2Proof.Machine

/-! Scattering (42_turbo_encoder.md R192). -/

theorem scatter_getElem?_of_not_mem {α : Type} {i : Nat} (ps : List Nat) : ∀ vs y : List α, i ∉ ps →
    (scatter ps vs y)[i]? = y[i]? := by
  induction ps with
  | nil => intro vs y _; simp [scatter]
  | cons p ps ih =>
    intro vs y hi
    obtain ⟨hne, hrest⟩ := not_or.mp (mt List.mem_cons.mpr hi)
    cases vs with
    | nil => rfl
    | cons v vs => rw [scatter, ih vs _ hrest, List.getElem?_set_ne (Ne.symm hne)]

/-- At distinct positions inside the sequence, scattering puts value `k` at position `k` of the list. -/
theorem scatter_getElem?_of_nodup {α : Type} (ps : List Nat) : ∀ (vs y : List α) (k : Nat) (hk : k < ps.length),
    ps.Nodup → (∀ p ∈ ps, p < y.length) → vs.length = ps.length → (scatter ps vs y)[ps[k]]? = vs[k]? := by
  induction ps with
  | nil => intro vs y k hk; simp at hk
  | cons p ps ih =>
    intro vs y k hk hnodup hinside hlength
    obtain ⟨hp, hnodup⟩ := List.nodup_cons.mp hnodup
    obtain ⟨hpy, hinside⟩ := List.forall_mem_cons.mp hinside
    obtain ⟨v, vs, rfl⟩ := List.exists_cons_of_length_eq_add_one hlength
    cases k with
    | zero =>
      rw [List.getElem_cons_zero, scatter, scatter_getElem?_of_not_mem ps vs _ hp, List.getElem?_set_self hpy,
        List.getElem?_cons_zero]
    | succ k =>
      exact ih vs (y.set p v) k (by simpa using hk) hnodup (by simpa using hinside) (by simpa using hlength)

section
variable {α : Type} {n : Nat} {perm : List Nat} {x y : List α}

/-- Scattering over a permutation of [0, n) puts `x[k]` at `perm[k]`, whatever stood in the output before. -/
theorem scatter_getElem?_of_perm (hperm : perm.Perm (List.range n)) (hx : x.length = n) (hy : y.length = n) {k : Nat}
    (hk : k < perm.length) : (scatter perm x y)[perm[k]]? = x[k]? := by
  refine scatter_getElem?_of_nodup perm x y k hk (hperm.nodup_iff.mpr List.nodup_range) (fun p hp => ?_) ?_
  · rw [hy]
    exact List.mem_range.mp (hperm.mem_iff.mp hp)
  · rw [hx, hperm.length_eq, List.length_range]

theorem scatter_interleave (d : α) (hperm : perm.Perm (List.range n)) (hx : x.length = n) (hy : y.length = n) :
    scatter perm (interleave d perm x) y = x := by
  have hlength : perm.length = n := by rw [hperm.length_eq, List.length_range]
  refine List.ext_getElem? fun i => ?_
  by_cases hi : i < n
  · obtain ⟨k, hk, rfl⟩ := List.mem_iff_getElem.mp (hperm.mem_iff.mpr (List.mem_range.mpr hi))
    rw [scatter_getElem?_of_perm hperm (by simpa using hlength) hy hk]
    simp [interleave, hk, hx, hi]
  · rw [List.getElem?_eq_none (by simp; omega), List.getElem?_eq_none (by omega)]

theorem interleave_scatter (d : α) (hperm : perm.Perm (List.range n)) (hx : x.length = n) (hy : y.length = n) :
    interleave d perm (scatter perm x y) = x := by
  have hlength : perm.length = n := by rw [hperm.length_eq, List.length_range]
  refine List.ext_getElem (by simp [hlength, hx]) fun k hk hkx => ?_
  have hget := scatter_getElem?_of_perm hperm hx hy (k := k) (by simpa using hk)
  simp [interleave, hget, hkx]

end

/-! The ILV table (R193, R194). -/

theorem State.getElem_perm (s : State) {k : Nat} (hk : k < s.perm.length) : s.perm[k] = s.ilvEntry k := by
  simp [State.perm]

/-- The table holds a permutation exactly when its entries are below a legal N and none repeats. -/
theorem holdsPermutation_iff (s : State) :
    s.holdsPermutation ↔ frameLegal s ∧ (∀ p ∈ s.perm, p < s.frameN) ∧ s.perm.Nodup := by
  simp [State.holdsPermutation, State.perm, List.nodup_map_iff_inj_on List.nodup_range]

theorem ilvEntry_lt_of_holdsPermutation {s : State} (h : s.holdsPermutation) {k : Nat} (hk : k < s.frameN) :
    s.ilvEntry k < s.frameN := by
  obtain ⟨-, hbelow, -⟩ := h
  exact hbelow k hk

/-- ILVCHK finds nothing to report exactly when the table holds a permutation for a legal N. -/
theorem ilvchkCheck_eq_none_iff {s : State} : ilvchkCheck s = none ↔ s.holdsPermutation := by
  rw [holdsPermutation_iff, ilvchkCheck]
  split
  · next hillegal => simp [← frameLenLegal_iff, hillegal]
  · next hlegal =>
    rw [not_not, frameLenLegal_iff] at hlegal
    rw [and_iff_right hlegal]
    simp [firstBadEntry_eq_none_iff]

theorem State.perm_take (s : State) {k : Nat} (hk : k ≤ s.frameN) : s.perm.take k = (List.range k).map s.ilvEntry := by
  rw [State.perm, ← List.map_take, List.take_range, Nat.min_eq_left hk]

/-- An entry that is not below N or repeats an earlier one. -/
abbrev badEntry (s : State) (k : Nat) : Prop :=
  s.frameN ≤ s.ilvEntry k ∨ ∃ j, j < k ∧ s.ilvEntry j = s.ilvEntry k

/-- The scan of the table stops at the least bad entry. -/
theorem firstBadEntry_perm {s : State} {k : Nat} (hk : k < s.frameN) (hbad : badEntry s k)
    (hbefore : ∀ m, m < k → s.ilvEntry m < s.frameN ∧ ∀ j, j < m → s.ilvEntry j ≠ s.ilvEntry m) :
    firstBadEntry s.frameN [] 0 s.perm = some k := by
  rw [firstBadEntry_eq_some_iff]
  refine ⟨k, by omega, by simpa using hk, ?_, ?_⟩
  · have hdistinct : ∀ i < k, ∀ j < k, s.ilvEntry i = s.ilvEntry j → i = j := by
      intro i hi j hj heq
      rcases Nat.lt_trichotomy i j with hlt | rfl | hgt
      · exact absurd heq ((hbefore j hj).2 i hlt)
      · rfl
      · exact absurd heq.symm ((hbefore i hi).2 j hgt)
    rw [s.perm_take hk.le, firstBadEntry_eq_none_iff]
    refine ⟨?_, (List.nodup_map_iff_inj_on List.nodup_range).mpr (by simpa using hdistinct)⟩
    simpa using fun m hm => (hbefore m hm).1
  · rw [s.perm_take hk.le, s.getElem_perm]
    simpa using hbad

end Sys2Proof.Machine
end

section
/-! 42_turbo_encoder.md settled: ILV_VALID keeps its meaning. -/

namespace Sys2Proof.Machine

/-! What the meaning of ILV_VALID rests on (42_turbo_encoder.md R194): ILV_VALID, FRAME_LEN and the bytes of the table. -/

theorem ilvEntry_congr {s t : State} (hmem : ∀ a, Region.ilv.contains a = true → t.readByte a = s.readByte a) {k : Nat}
    (hk : k < 4096) : t.ilvEntry k = s.ilvEntry k := by
  have hbytes : t.readBytes (Region.ilv.base + 4 * k) 4 = s.readBytes (Region.ilv.base + 4 * k) 4 := by
    refine List.map_congr_left fun i hi => hmem _ (Region.ilv.contains_iff _ |>.mpr ?_)
    have hi := List.mem_range.mp hi
    simp only [Region.base, Region.size, Config.nMax]
    omega
  rw [State.ilvEntry, State.ilvEntry, memRead, memRead, hbytes]

theorem holdsPermutation_congr {s t : State} (hlen : t.csr.frameLen = s.csr.frameLen)
    (hmem : ∀ a, Region.ilv.contains a = true → t.readByte a = s.readByte a) (h : s.holdsPermutation) :
    t.holdsPermutation := by
  have hframe : t.frameN = s.frameN := by rw [State.frameN, hlen, State.frameN]
  obtain ⟨hlegal, hbelow, hinjective⟩ := h
  have hentry (k : Nat) (hk : k < s.frameN) : t.ilvEntry k = s.ilvEntry k := ilvEntry_congr hmem (by omega)
  rw [State.holdsPermutation, hframe]
  refine ⟨hlegal, fun k hk => ?_, fun j hj k hk heq => ?_⟩
  · rw [hentry k hk]
    exact hbelow k hk
  · rw [hentry j hj, hentry k hk] at heq
    exact hinjective j hj k hk heq

/-- Where ILV_VALID stands only if it stood before, over the same FRAME_LEN and the same table, it keeps its meaning. -/
theorem interleaverKept_of_unchanged {s t : State} (h : s.interleaverKept)
    (hsame : t.csr.ilvValid = true → s.csr.ilvValid = true ∧ t.csr.frameLen = s.csr.frameLen ∧
      ∀ a, Region.ilv.contains a = true → t.readByte a = s.readByte a) : t.interleaverKept := by
  intro hvalid
  obtain ⟨hbefore, hlen, hmem⟩ := hsame hvalid
  exact holdsPermutation_congr hlen hmem (h hbefore)

theorem interleaverKept_of_invalid {t : State} (h : t.csr.ilvValid = false) : t.interleaverKept := by
  intro hvalid
  exact absurd (h.symm.trans hvalid) Bool.false_ne_true

/-! Commands: ILVCHK sets ILV_VALID only over a permutation, and the output of every command lies beyond the table. -/

theorem exec_readByte_ilv {i : Instr} {s t : State} (hrun : exec i s = .next t) (a : Nat)
    (ha : Region.ilv.contains a = true) : t.readByte a = s.readByte a := by
  obtain ⟨-, hother⟩ := commandsWriteOnlyTheirOutput i s t hrun
  simp only [Region.contains_iff, Region.base, Region.size, Config.nMax] at ha
  exact hother a (by omega)

theorem interleaverKept_exec {i : Instr} {s t : State} (h : s.interleaverKept) (hrun : exec i s = .next t) :
    t.interleaverKept := by
  have hkeep := commandsKeepTheOtherRegisters i s t hrun
  have hlen : t.csr.frameLen = s.csr.frameLen := (congrArg Csr.frameLen hkeep :)
  by_cases hi : i = .ilvchk
  · subst hi
    rcases exec_cases .ilvchk s with ⟨hpass, -⟩ | ⟨e, -, herr⟩
    · exact fun _ => holdsPermutation_congr hlen (exec_readByte_ilv hrun) (ilvchkCheck_eq_none_iff.mp hpass)
    · cases herr.symm.trans hrun
      exact interleaverKept_of_invalid rfl
  · have hvalid : t.csr.ilvValid = s.csr.ilvValid := (congrArg Csr.ilvValid hkeep).trans (if_neg hi)
    exact interleaverKept_of_unchanged h fun hv => ⟨hvalid ▸ hv, hlen, exec_readByte_ilv hrun⟩

theorem interleaverKept_sequencerTurn {s t : State} (h : s.interleaverKept) (hturn : sequencerTurn s = .next t) :
    t.interleaverKept := by
  rcases sequencerTurn_cases s with ⟨-, hidle⟩ | ⟨-, i, -, hrun⟩ | ⟨-, e, -, hillegal⟩
  · cases hidle.symm.trans hturn
    exact h
  · exact interleaverKept_exec h (hrun.symm.trans hturn)
  · cases hillegal.symm.trans hturn
    exact h

/-! Host accesses: a write to FRAME_LEN or to the table clears ILV_VALID (R194, 10_state.md R44). -/

theorem interleaverKept_noteIllegal {s : State} (h : s.interleaverKept) (cause : AccCause) (wr : Bool) (a : Addr) :
    (noteIllegal cause wr a s).interleaverKept := by
  refine interleaverKept_of_unchanged h fun hvalid => ?_
  rw [noteIllegal_csr, Csr.noteAccess_eq] at hvalid ⊢
  exact ⟨hvalid, rfl, fun _ _ => rfl⟩

theorem interleaverKept_hostRead {s : State} (h : s.interleaverKept) (a : Addr) : (hostRead a s).interleaverKept := by
  rcases hostRead_cases a s with ⟨cause, -, hread⟩ | ⟨-, hread⟩ <;> rw [hread]
  · exact interleaverKept_noteIllegal h cause false a
  · exact h

theorem Csr.writeReg_frameLen {r : Reg} (hr : r ≠ .frameLen) (v : Word) (c : Csr) :
    (c.writeReg r v).frameLen = c.frameLen := by
  cases r with
  | frameLen => exact absurd rfl hr
  | _ => rfl

theorem interleaverKept_writeReg {s : State} (h : s.interleaverKept) (r : Reg) (v : Word) :
    ({ s with csr := s.csr.writeReg r v } : State).interleaverKept := by
  refine interleaverKept_of_unchanged h fun hvalid => ?_
  obtain ⟨hbefore, hr⟩ : s.csr.ilvValid = true ∧ r ≠ .frameLen := by simpa using hvalid
  exact ⟨hbefore, Csr.writeReg_frameLen hr v s.csr, fun _ _ => rfl⟩

/-- A legal RAM write that leaves ILV_VALID at 1 is at an aligned address outside the table, so its four bytes are. -/
theorem interleaverKept_writeRam {s : State} (h : s.interleaverKept) {a : Addr} (v : Word) (haligned : a.toNat % 4 = 0) :
    (writeRam a v s).interleaverKept := by
  refine interleaverKept_of_unchanged h fun hvalid => ?_
  rw [writeRam_csr_eq] at hvalid ⊢
  obtain ⟨hbefore, houtside⟩ : s.csr.ilvValid = true ∧ ¬ Region.ilv.contains a.toNat = true := by simpa using hvalid
  refine ⟨hbefore, rfl, fun x hx => writeRam_readByte_outside a v s ?_⟩
  simp only [Region.contains_iff, Region.base, Region.size, Config.nMax] at houtside hx
  omega

theorem interleaverKept_hostWrite {s : State} (h : s.interleaverKept) (a : Addr) (v : Word) :
    (hostWrite a v s).interleaverKept := by
  rcases hostWrite_cases a v s with
    ⟨cause, -, hwrite⟩ | ⟨hlegal, ⟨-, hwrite⟩ | ⟨-, hwrite⟩ | ⟨r, -, -, -, hwrite⟩ | ⟨hreg, hwrite⟩⟩
  all_goals rw [hwrite]
  · exact interleaverKept_noteIllegal h cause true a
  · unfold writeCtrl
    split
    · exact interleaverKept_of_invalid rfl
    · exact h
  · unfold writeCmd
    split <;> exact h
  · exact interleaverKept_writeReg h r v
  · obtain ⟨haligned, -⟩ := ram_of_legal hreg hlegal
    exact interleaverKept_writeRam h v haligned

/-- Settles O42: only ILVCHK raises ILV_VALID, and only over a permutation; what could change the table or FRAME_LEN
under it clears it. -/
theorem stepKeepsIlvValidMeaning : Obligations.StepKeepsIlvValidMeaning := by
  intro s t h hstep
  have hrest (es : List Event) : ({ s with events := es } : State).interleaverKept := h
  rcases step_cases s with ⟨-, hs⟩ | ⟨es, -, hs⟩ | ⟨a, es, -, hs⟩ | ⟨a, v, es, -, hs⟩ | ⟨es, -, hs⟩
  · exact interleaverKept_sequencerTurn h (hs.symm.trans hstep)
  · exact interleaverKept_sequencerTurn (hrest es) (hs.symm.trans hstep)
  all_goals cases hs.symm.trans hstep
  · exact interleaverKept_hostRead (hrest es) a
  · exact interleaverKept_hostWrite (hrest es) a v
  · exact interleaverKept_of_invalid rfl

end Sys2Proof.Machine
end

section
/-! SUPPORT. The checks of the turbo encoder family as one chain of conditions each, and its outputs by index. -/

namespace Sys2Proof.Machine

/-! Checks (42_turbo_encoder.md R195, R196, R198; 60_exceptions.md R332). -/

theorem constraintLegal_iff (s : State) : s.csr.constraintLegal = true ↔ constraintOk s := by
  simp only [Csr.constraintLegal, Bool.and_eq_true, decide_eq_true_eq]
  rfl

/-- With a legal K the subtraction K − 2 of the rule cuts nothing off. -/
theorem tapsLegal_iff {s : State} (h : constraintOk s) : s.csr.tapsLegal = true ↔ tapsOk s := by
  simp only [Csr.tapsLegal, Bool.and_eq_true, decide_eq_true_eq, and_assoc]
  refine and_congr_right fun _ => ?_
  omega

theorem rscConfigCheck_eq (s : State) : rscConfigCheck s =
    if ¬ frameLegal s then some (configError .frameLen)
    else if ¬ constraintOk s then some (configError .constraintLen)
    else if ¬ tapsOk s then some (configError .rscTaps)
    else none := by
  simp only [rscConfigCheck, frameLenLegal_iff, constraintLegal_iff]
  split
  · rfl
  · split
    · rfl
    · next hconstraint => simp only [tapsLegal_iff (not_not.mp hconstraint)]

theorem rscencCheck_eq (s : State) : rscencCheck s =
    if ¬ frameLegal s then some (configError .frameLen)
    else if ¬ constraintOk s then some (configError .constraintLen)
    else if ¬ tapsOk s then some (configError .rscTaps)
    else if s.srcLen ≠ s.frameN then some ⟨.frameLengthMismatch, s.csr.srcLen⟩
    else nonBinaryError .nonBinaryInput (s.srcBytes s.srcLen) := by
  rw [rscencCheck, rscConfigCheck_eq, frameLengthCheck]
  split_ifs <;> rfl

theorem frameLenCheck_eq (s : State) :
    frameLenCheck s = if ¬ frameLegal s then some (configError .frameLen) else none := by
  simp only [frameLenCheck, frameLenLegal_iff, ite_not]

theorem ilvValidCheck_eq (s : State) :
    ilvValidCheck s = if s.csr.ilvValid = false then some ilvInvalidError else none := by
  rw [ilvValidCheck]
  cases s.csr.ilvValid <;> rfl

theorem interleaverCheck_eq (s : State) : interleaverCheck s =
    if ¬ frameLegal s then some (configError .frameLen)
    else if s.csr.ilvValid = false then some ilvInvalidError
    else if s.srcLen ≠ s.frameN then some ⟨.frameLengthMismatch, s.csr.srcLen⟩
    else none := by
  rw [interleaverCheck, frameLenCheck_eq, ilvValidCheck_eq, frameLengthCheck]
  split_ifs <;> rfl

theorem tencCheck_eq (s : State) : tencCheck s =
    if ¬ frameLegal s then some (configError .frameLen)
    else if ¬ constraintOk s then some (configError .constraintLen)
    else if ¬ tapsOk s then some (configError .rscTaps)
    else if s.csr.ilvValid = false then some ilvInvalidError
    else if s.srcLen ≠ s.frameN then some ⟨.frameLengthMismatch, s.csr.srcLen⟩
    else nonBinaryError .nonBinaryInput (s.srcBytes s.srcLen) := by
  rw [tencCheck, rscConfigCheck_eq, ilvValidCheck_eq, frameLengthCheck]
  split_ifs <;> rfl

/-! Outputs (R195, R197, R198). -/

theorem State.srcBits_eq_map (s : State) (n : Nat) : s.srcBits n = (List.range n).map fun i => cellBit (s.src8 i) :=
  List.map_map

theorem State.final_srcBits (s : State) (n : Nat) : (s.rscRun (s.srcBits n)).final = s.rscStateAt s.src8 n := by
  rw [State.srcBits_eq_map, State.rscStateAt]

/-- Interleaving the frame by a permutation reads its cells in the order of the table. -/
theorem interleave_srcBits {s : State} (h : s.holdsPermutation) : interleave false s.perm (s.srcBits s.frameN) =
    (List.range s.frameN).map fun k => cellBit (s.src8 (s.ilvEntry k)) := by
  rw [interleave, State.perm, List.map_map, State.srcBits_eq_map]
  refine List.map_congr_left fun k hk => ?_
  simp [ilvEntry_lt_of_holdsPermutation h (List.mem_range.mp hk)]

theorem final_interleave_srcBits {s : State} (h : s.holdsPermutation) :
    (s.rscRun (interleave false s.perm (s.srcBits s.frameN))).final =
      s.rscStateAt (fun k => s.src8 (s.ilvEntry k)) s.frameN := by
  rw [interleave_srcBits h, State.rscStateAt]

theorem binaryCell_ilvEntry {s : State} (hbinary : binarySrc s s.frameN) (hperm : s.holdsPermutation) (k : Nat)
    (hk : k < s.frameN) : binaryCell s (s.ilvEntry k) :=
  hbinary _ (ilvEntry_lt_of_holdsPermutation hperm hk)

/-- Binary cells are the cells of the bits they hold. -/
theorem bitsToCells_map_cellBit {f : Nat → Byte} {n : Nat} (hbinary : ∀ i, i < n → f i = 0 ∨ f i = 1) :
    bitsToCells ((List.range n).map fun i => cellBit (f i)) = (List.range n).map f := by
  rw [bitsToCells, List.map_map]
  exact List.map_congr_left fun i hi => bitCell_cellBit (hbinary i (List.mem_range.mp hi))

theorem map_range_append_map_range {α : Type} (f g : Nat → α) (m n : Nat) :
    (List.range m).map f ++ (List.range n).map g = (List.range (m + n)).map fun i => if i < m then f i else g (i - m) := by
  rw [List.range_add, List.map_append, List.map_map]
  congr 1
  · exact List.map_congr_left fun i hi => (if_pos (List.mem_range.mp hi)).symm
  · exact List.map_congr_left fun i _ => by simp

theorem map_range_append_self {α : Type} (f : Nat → α) (n : Nat) :
    (List.range n).map f ++ (List.range n).map f = (List.range (2 * n)).map fun i => f (i % n) := by
  rw [map_range_append_map_range, ← Nat.two_mul]
  refine List.map_congr_left fun i hi => ?_
  have hi := List.mem_range.mp hi
  split
  · next hlow => rw [Nat.mod_eq_of_lt hlow]
  · next hhigh => rw [Nat.mod_eq_sub_mod (Nat.not_lt.mp hhigh), Nat.mod_eq_of_lt (by omega)]

/-- RSCENC writes the frame twice: its parity is the frame again (R199). -/
theorem rscencEffect_dst {s : State} (hbinary : binarySrc s s.frameN) :
    (rscencEffect s).dst = (List.range (2 * s.frameN)).map fun i => s.src8 (i % s.frameN) := by
  obtain ⟨hsys, hpar⟩ := rscRun_eq_input s (s.srcBits s.frameN)
  rw [← map_range_append_self, ← bitsToCells_map_cellBit hbinary, ← State.srcBits_eq_map, rscencEffect, hsys, hpar]
  exact List.map_append

/-- TENC writes the frame twice and then the interleaved frame (R199, R200). -/
theorem tencEffect_dst {s : State} (hbinary : binarySrc s s.frameN) (hperm : s.holdsPermutation) :
    (tencEffect s).dst = (List.range (3 * s.frameN)).map fun i =>
      if i < 2 * s.frameN then s.src8 (i % s.frameN) else s.src8 (s.ilvEntry (i - 2 * s.frameN)) := by
  have hsecond := (rscRun_eq_input s (interleave false s.perm (s.srcBits s.frameN))).2
  have hthird : bitsToCells (interleave false s.perm (s.srcBits s.frameN)) =
      (List.range s.frameN).map fun k => s.src8 (s.ilvEntry k) := by
    rw [interleave_srcBits hperm, bitsToCells_map_cellBit (binaryCell_ilvEntry hbinary hperm)]
  rw [show 3 * s.frameN = 2 * s.frameN + s.frameN by omega,
    ← map_range_append_map_range (fun i => s.src8 (i % s.frameN)) (fun k => s.src8 (s.ilvEntry k)),
    ← rscencEffect_dst hbinary, ← hthird, tencEffect, rscencEffect, hsecond]
  exact List.map_append

/-- DILV writes SRC byte `k` at entry `k` of a table that holds a permutation. -/
theorem dilvEffect_dst_getElem? {s : State} (hperm : s.holdsPermutation) {k : Nat} (hk : k < s.frameN) :
    (dilvEffect s).dst[s.ilvEntry k]? = some (s.src8 k) := by
  obtain ⟨-, hbelow, hnodup⟩ := (holdsPermutation_iff s).mp hperm
  have hkp : k < s.perm.length := by simpa using hk
  have hget := scatter_getElem?_of_nodup s.perm (s.srcBytes s.frameN) ((List.range s.frameN).map s.dst8) k hkp hnodup
    (by simpa using hbelow) (by simp)
  rw [s.getElem_perm] at hget
  rw [dilvEffect, hget]
  simp [State.srcBytes, hk]

end Sys2Proof.Machine
end

section
/-! 42_turbo_encoder.md settled: the encoder and the interleaver as functions, and the commands over them. -/

namespace Sys2Proof.Machine

/-- Settles O27: the systematic output is the input by definition, the parity because the taps cancel. -/
theorem rscParityEqualsInput : Obligations.RscParityEqualsInput := fun x k a b =>
  ⟨rfl, rscParities_eq_input k a b x 0⟩

/-- Settles O29: scattering over a permutation writes each position once, so it inverts reading by the permutation. -/
theorem deinterleaveInvertsInterleave : Obligations.DeinterleaveInvertsInterleave := by
  intro n perm x y hperm hx hy
  refine ⟨fun k hk => ?_, scatter_interleave 0 hperm hx hy, interleave_scatter 0 hperm hx hy⟩
  have hkp : k < perm.length := by rwa [hperm.length_eq, List.length_range]
  rw [List.getD_eq_getElem perm 0 hkp]
  exact scatter_getElem?_of_perm hperm hx hy hkp

/-- An error of ILVCHK is the one error that clears a register besides the status: ILV_VALID. -/
theorem failsFrom_ilvchk {s : State} {e : CmdError} (h : ilvchkCheck s = some e) :
    FailsFrom { s.csr with ilvValid := false } .ilvchk s e.kind.code e.info :=
  ⟨_, exec_err (i := .ilvchk) h, rfl, fun _ => rfl, rfl, rfl, rfl, rfl, rfl⟩

/-- Settles O9: the scan stops at the least bad entry, and passes over a permutation. -/
theorem ilvchkValidatesTheTable : Obligations.IlvchkValidatesTheTable := by
  refine ⟨decode_encode_of_wellFormed (i := .ilvchk) rfl, fun s => ⟨fun hillegal => ?_, ?_, fun hperm => ?_⟩⟩
  · rw [← frameLenLegal_iff] at hillegal
    exact failsFrom_ilvchk (if_pos hillegal)
  · intro k hlegal hk hbad hbefore
    rw [← frameLenLegal_iff] at hlegal
    have hfail : ilvchkCheck s = some ⟨.interleaverInvalid, BitVec.ofNat 32 k⟩ := by
      rw [ilvchkCheck, if_neg (not_not.mpr hlegal), firstBadEntry_perm hk hbad hbefore, Option.map_some]
    exact failsFrom_ilvchk hfail
  · have hpass : failingCheck .ilvchk s = none := ilvchkCheck_eq_none_iff.mpr hperm
    exact completesWith_of_effect hpass ilvchkEffect_writes fun j hj => absurd hj (Nat.not_lt_zero j)

/-- Settles O12: the chain of checks; both halves of the output are the frame, and the encoder's states are those of the
recurrence. -/
theorem rscencFollowsItsRule : Obligations.RscencFollowsItsRule := by
  refine ⟨decode_encode_of_wellFormed (i := .rscenc) rfl, fun s => ⟨?_, ?_⟩⟩
  · have hfails {e : CmdError} (h : rscencCheck s = some e) : FailsWith .rscenc s e.kind.code e.info :=
      failsWith_of_failingCheck (by decide) h
    rw [rscencCheck_eq] at hfails
    split_ifs at hfails ⊢
    case neg hlength =>
      rw [not_ne_iff.mp hlength] at hfails
      exact fun k hleast => hfails (nonBinaryError_srcBytes_eq_some _ hleast)
    all_goals exact hfails rfl
  · intro hframe hconstraint htaps hlength hbinary
    have hpass : rscencCheck s = none := by
      rw [rscencCheck_eq, if_neg (not_not.mpr hframe), if_neg (not_not.mpr hconstraint), if_neg (not_not.mpr htaps),
        if_neg (not_not.mpr hlength), hlength, nonBinaryError_srcBytes_eq_none _ hbinary]
    refine ⟨_, refRscRun_rscStateAt hconstraint hbinary, ?_⟩
    rw [BitVec.ofNat_toNat, BitVec.setWidth_eq, ← State.final_srcBits]
    exact completesWith_of_effect hpass (rscencEffect_writes hpass) fun j hj => by
      simp [commandEffect, rscencEffect_dst hbinary]

/-- ILV and DILV report the same errors in the same order. -/
theorem failsWith_of_interleaverCheck {i : Instr} {s : State} (hi : i ≠ .ilvchk)
    (hcheck : failingCheck i s = interleaverCheck s) :
    if ¬ frameLegal s then FailsWith i s 0x11 0x024
    else if s.csr.ilvValid = false then FailsWith i s 0x12 0xFFFFFFFF
    else s.srcLen ≠ s.frameN → FailsWith i s 0x01 s.csr.srcLen := by
  have hfails {e : CmdError} (h : interleaverCheck s = some e) : FailsWith i s e.kind.code e.info :=
    failsWith_of_failingCheck hi (hcheck.trans h)
  rw [interleaverCheck_eq] at hfails
  split_ifs at hfails ⊢ with hframe hinvalid hlength
  · exact hfails rfl
  · exact fun _ => hfails rfl
  · exact fun hdiffers => absurd hdiffers hlength
  · exact hfails rfl

theorem interleaverCheck_eq_none {s : State} (hframe : frameLegal s) (hvalid : s.csr.ilvValid = true)
    (hlength : s.srcLen = s.frameN) : interleaverCheck s = none := by
  rw [interleaverCheck_eq, if_neg (not_not.mpr hframe), if_neg (by simp [hvalid]), if_neg (not_not.mpr hlength)]

/-- Settles O13: the output is the list of the SRC bytes that the entries of the table name. -/
theorem ilvFollowsItsRule : Obligations.IlvFollowsItsRule := by
  refine ⟨decode_encode_of_wellFormed (i := .ilv) rfl, fun s => ⟨failsWith_of_interleaverCheck (by decide) rfl, ?_⟩⟩
  intro hframe hvalid hlength _
  have hpass := interleaverCheck_eq_none hframe hvalid hlength
  exact completesWith_of_effect hpass (ilvEffect_writes hpass) fun j hj => by
    simp [commandEffect, ilvEffect, State.perm]

/-- Settles O14: over a permutation every byte of the output is scattered to once. -/
theorem dilvFollowsItsRule : Obligations.DilvFollowsItsRule := by
  refine ⟨decode_encode_of_wellFormed (i := .dilv) rfl, fun s => ⟨failsWith_of_interleaverCheck (by decide) rfl, ?_⟩⟩
  intro hframe hvalid hlength hkept
  have hpass := interleaverCheck_eq_none hframe hvalid hlength
  refine ⟨fun j => (dilvEffect s).dst.getD j 0, fun k hk => ?_, ?_⟩
  · simp [dilvEffect_dst_getElem? (hkept hvalid) hk]
  · exact completesWith_of_effect hpass (dilvEffect_writes hpass) fun j hj => (List.getD_eq_getElem _ 0 hj).symm

/-- Settles O15: the chain of checks; both parities are their inputs, and each encoder's states are those of the
recurrence over its own input. -/
theorem tencFollowsItsRule : Obligations.TencFollowsItsRule := by
  refine ⟨decode_encode_of_wellFormed (i := .tenc) rfl, fun s => ⟨?_, ?_⟩⟩
  · have hfails {e : CmdError} (h : tencCheck s = some e) : FailsWith .tenc s e.kind.code e.info :=
      failsWith_of_failingCheck (by decide) h
    rw [tencCheck_eq] at hfails
    split_ifs at hfails ⊢
    case neg hlength =>
      rw [not_ne_iff.mp hlength] at hfails
      exact fun k hleast => hfails (nonBinaryError_srcBytes_eq_some _ hleast)
    all_goals exact hfails rfl
  · intro hframe hconstraint htaps hvalid hlength hbinary hkept
    have hperm := hkept hvalid
    have hpass : tencCheck s = none := by
      rw [tencCheck_eq, if_neg (not_not.mpr hframe), if_neg (not_not.mpr hconstraint), if_neg (not_not.mpr htaps),
        if_neg (by simp [hvalid]), if_neg (not_not.mpr hlength), hlength, nonBinaryError_srcBytes_eq_none _ hbinary]
    refine ⟨_, _, refRscRun_rscStateAt hconstraint hbinary,
      refRscRun_rscStateAt hconstraint (binaryCell_ilvEntry hbinary hperm), ?_⟩
    simp only [BitVec.ofNat_toNat, BitVec.setWidth_eq]
    rw [← State.final_srcBits, ← final_interleave_srcBits hperm]
    exact completesWith_of_effect hpass (tencEffect_writes hpass) fun j hj => by
      simp [commandEffect, tencEffect_dst hbinary hperm]

end Sys2Proof.Machine
end

section
/-! SUPPORT. What 43_turbo_decoder.md R224 and R225 need of binary64: sums that are exact, the sign of a doubled value, and
the extrinsic value of a component decoder, which is +0.0 or a NaN. -/

namespace Sys2Proof

/-! The sign of a value. -/

theorem F64.signBit_eq_decide_value_lt {x : F64} (h : F64.value x ≠ 0) :
    F64.signBit x = decide (F64.value x < 0) := by
  rw [F64.value_eq_signed] at h ⊢
  cases F64.signBit x <;> simp [F64.signed] at h ⊢
  omega

/-- Of two values the positive ones are those with a clear sign bit that are not zero. -/
theorem F64.value_pos_iff (x : F64) : 0 < F64.value x ↔ F64.signBit x = false ∧ F64.value x ≠ 0 := by
  rw [F64.value_eq_signed]
  cases F64.signBit x <;> simp [F64.signed]
  omega

theorem F64.gt_zero_iff (x : F64) : F64.gt x F64.zero = true ↔ F64.isNaN x = false ∧ 0 < F64.value x := by
  have hzero : F64.isNaN F64.zero = false ∧ F64.value F64.zero = 0 := by decide
  simp [F64.gt, F64.lt, hzero]

theorem F64.gt_zero_of_isNaN {x : F64} (h : F64.isNaN x = true) : F64.gt x F64.zero = false := by
  simp [F64.gt, F64.lt, h]

/-! Negation: it keeps the magnitude. -/

theorem F64.mag_neg (x : F64) : F64.mag (F64.neg x) = F64.mag x := by
  apply Nat.eq_of_testBit_eq
  intro k
  rw [F64.mag, F64.mag, Nat.testBit_mod_two_pow, Nat.testBit_mod_two_pow, BitVec.testBit_toNat, BitVec.testBit_toNat]
  by_cases hk : k < 63
  · rw [F64.getLsbD_neg x (by omega), decide_eq_false hk.ne, Bool.xor_false]
  · simp [hk]

theorem F64.signBit_neg (x : F64) : F64.signBit (F64.neg x) = !F64.signBit x := by
  rw [F64.signBit, F64.getLsbD_neg x (by decide), decide_eq_true rfl, Bool.xor_true, F64.signBit]

theorem F64.isInf_neg (x : F64) : F64.isInf (F64.neg x) = F64.isInf x := by
  rw [Bool.eq_iff_iff, F64.isInf_iff_mag, F64.isInf_iff_mag, F64.mag_neg]

theorem F64.isFinite_neg (x : F64) : F64.isFinite (F64.neg x) = F64.isFinite x := by
  rw [Bool.eq_iff_iff, F64.isFinite_iff_mag, F64.isFinite_iff_mag, F64.mag_neg]

theorem F64.value_neg (x : F64) : F64.value (F64.neg x) = -F64.value x := by
  have hunits : F64.units (F64.neg x) = F64.units x := by
    simp only [F64.units, F64.expField_eq_mag_div, F64.fracField_eq_mag_mod, F64.mag_neg]
  rw [F64.value_eq_signed, F64.value_eq_signed, hunits, F64.signBit_neg]
  cases F64.signBit x <;> simp [F64.signed]

/-! Exact sums. -/

/-- A finite magnitude lies below the bound from which a sum overflows. -/
theorem F64.units_lt_overflow {x : F64} (h : F64.isFinite x = true) : F64.units x < (2 ^ 54 - 1) * 2 ^ 2044 := by
  obtain ⟨t, q, hmag, hq, hnormal, hunits⟩ := F64.exists_significand x
  rw [F64.isFinite_iff_mag, hmag, F64.infMag] at h
  have ht : t ≤ 2045 := by omega
  calc F64.units x = q * 2 ^ t := hunits
    _ ≤ (2 ^ 53 - 1) * 2 ^ 2045 := Nat.mul_le_mul (by omega) (pow_le_pow_right₀ one_le_two ht)
    _ = (2 ^ 53 - 1) * 2 * 2 ^ 2044 := by rw [mul_assoc, ← pow_succ']
    _ < (2 ^ 54 - 1) * 2 ^ 2044 := Nat.mul_lt_mul_of_pos_right (by decide) (by positivity)

/-- An exact sum that is a finite binary64 value is what the addition gives. -/
theorem F64.add_exact {a b c : F64} (ha : F64.isFinite a = true) (hb : F64.isFinite b = true)
    (hc : F64.isFinite c = true) (hsum : F64.value a + F64.value b = F64.value c) :
    F64.isFinite (F64.add a b) = true ∧ F64.value (F64.add a b) = F64.value c := by
  obtain ⟨-, -, -, hrounds⟩ := additionRoundsToNearestEven a b
  obtain ⟨-, hfinite, -, -, hnear⟩ := hrounds ha hb
  rw [hsum] at hfinite hnear
  have hfin : F64.isFinite (F64.add a b) = true := hfinite.mpr (by
    rw [F64.value_eq_signed, F64.natAbs_signed]
    exact F64.units_lt_overflow hc)
  obtain ⟨hle, -⟩ := hnear hfin c hc
  exact ⟨hfin, by omega⟩

/-- An exact zero sum is −0.0 only of two negative zeros. -/
theorem F64.add_of_sum_eq_zero {a b : F64} (ha : F64.isFinite a = true) (hb : F64.isFinite b = true)
    (hsum : F64.value a + F64.value b = 0) : F64.add a b = F64.withSign (F64.signBit a && F64.signBit b) 0 := by
  rw [F64.add_of_isFinite ha hb, F64.sumSign, if_pos hsum, hsum, Int.natAbs_zero, F64.round_zero]

/-- Adding a zero keeps the value; it can turn −0.0 into +0.0 and never the other way round. -/
theorem F64.add_zero_value {x z : F64} (hx : F64.isFinite x = true) (hz : F64.isFinite z = true)
    (hvalue : F64.value z = 0) : F64.isFinite (F64.add x z) = true ∧ F64.value (F64.add x z) = F64.value x :=
  F64.add_exact hx hz hx (by rw [hvalue, Int.add_zero])

theorem F64.add_zero_of_isInf {x z : F64} (hx : F64.isInf x = true) (hz : F64.isFinite z = true) : F64.add x z = x := by
  rw [F64.add_of_isInf_left hx (F64.isNaN_of_isFinite hz)]
  exact if_neg fun ⟨hzinf, _⟩ => Bool.false_ne_true ((F64.isInf_of_isFinite hz).symm.trans hzinf)

/-- A binary64 pattern is a NaN, an infinity or finite. -/
theorem F64.isNaN_or_isInf_or_isFinite (x : F64) : F64.isNaN x = true ∨ F64.isInf x = true ∨ F64.isFinite x = true := by
  rw [F64.isNaN_iff_mag, F64.isInf_iff_mag, F64.isFinite_iff_mag]
  omega

/-! The decision on a doubled value (43_turbo_decoder.md R223, R225). -/

theorem F64.gt_add_zero (x : F64) : F64.gt (F64.add x F64.zero) F64.zero = F64.gt x F64.zero := by
  obtain hnan | hinf | hfin := F64.isNaN_or_isInf_or_isFinite x
  · rw [F64.add_of_isNaN (.inl hnan), F64.gt_zero_of_isNaN hnan, F64.gt_zero_of_isNaN F64.isNaN_nan]
  · rw [F64.add_zero_of_isInf hinf (by decide)]
  · obtain ⟨hfin', hvalue⟩ := F64.add_zero_value hfin (z := F64.zero) (by decide) (by decide)
    rw [Bool.eq_iff_iff, F64.gt_zero_iff, F64.gt_zero_iff, F64.isNaN_of_isFinite hfin, F64.isNaN_of_isFinite hfin', hvalue]

theorem F64.value_two : F64.value F64.two = 2 * 2 ^ 1074 := by
  obtain ⟨-, -, -, -, htwo, -⟩ := comparisonsSignsAndConstants
  exact htwo

theorem F64.value_ne_zero_of_isInf {x : F64} (h : F64.isInf x = true) : F64.value x ≠ 0 := by
  rw [Ne, ← F64.units_eq_zero_iff, F64.units_of_isInf h]
  positivity

/-- Doubling does not underflow: `c` itself would be nearer to the exact product than a zero. -/
theorem F64.mul_two_eq_zero_iff {c : F64} (hc : F64.isFinite c = true) :
    F64.value (F64.mul F64.two c) = 0 ↔ F64.value c = 0 := by
  constructor
  · intro hzero
    obtain ⟨-, -, hrounds⟩ := multiplicationRoundsToNearestEven F64.two c
    obtain ⟨hnan, -, -, hnear⟩ := hrounds (by decide) hc
    have hinf : F64.isInf (F64.mul F64.two c) = false :=
      Bool.eq_false_iff.mpr fun hinf => F64.value_ne_zero_of_isInf hinf hzero
    obtain ⟨hle, -⟩ := hnear (by rw [F64.isFinite_eq_not_isInf hnan, hinf, Bool.not_false]) c hc
    have hpos : (0 : Int) < 2 ^ 1074 := by positivity
    rw [hzero, F64.value_two, mul_right_comm, mul_assoc 2] at hle
    have hscaled : F64.value c * 2 ^ 1074 = 0 := by omega
    exact (Int.mul_eq_zero.mp hscaled).resolve_right hpos.ne'
  · intro hzero
    rw [F64.mul_of_isFinite (by decide) hc, (F64.units_eq_zero_iff c).mpr hzero, Nat.mul_zero, F64.round_zero]
    cases F64.signBit F64.two != F64.signBit c <;> decide

/-- Doubling keeps the sign, and makes neither a zero nor a NaN. -/
theorem F64.mul_two_sign {c : F64} (hc : F64.isNaN c = false) :
    F64.isNaN (F64.mul F64.two c) = false ∧ F64.signBit (F64.mul F64.two c) = F64.signBit c ∧
      (F64.value (F64.mul F64.two c) = 0 ↔ F64.value c = 0) := by
  obtain ⟨-, hspecial, hrounds⟩ := multiplicationRoundsToNearestEven F64.two c
  have hsign : (F64.signBit F64.two != F64.signBit c) = F64.signBit c := Bool.false_bne _
  obtain hnan | hinf | hfin := F64.isNaN_or_isInf_or_isFinite c
  · exact absurd (hc.symm.trans hnan) Bool.false_ne_true
  · have hvalue := F64.value_ne_zero_of_isInf hinf
    have hproduct : F64.value F64.two * F64.value c ≠ 0 := by
      rw [F64.value_two]
      exact mul_ne_zero (by positivity) hvalue
    obtain ⟨hrinf, hrsign⟩ := (if_neg hproduct).mp (hspecial (by decide) hc (.inr hinf))
    exact ⟨F64.isNaN_of_isInf hrinf, hrsign.trans hsign,
      iff_of_false (F64.value_ne_zero_of_isInf hrinf) hvalue⟩
  · obtain ⟨hnan, hrsign, -⟩ := hrounds (by decide) hfin
    exact ⟨hnan, hrsign.trans hsign, F64.mul_two_eq_zero_iff hfin⟩

theorem F64.gt_mul_two (c : F64) : F64.gt (F64.mul F64.two c) F64.zero = F64.gt c F64.zero := by
  cases hnan : F64.isNaN c with
  | true => rw [F64.mul_of_isNaN (.inr hnan), F64.gt_zero_of_isNaN hnan, F64.gt_zero_of_isNaN F64.isNaN_nan]
  | false =>
    obtain ⟨hrnan, hsign, hzero⟩ := F64.mul_two_sign hnan
    rw [Bool.eq_iff_iff, F64.gt_zero_iff, F64.gt_zero_iff, F64.value_pos_iff, F64.value_pos_iff, hrnan, hnan, hsign,
      Ne, hzero]

/-! The extrinsic value of a component decoder (R224). -/

/-- `ext` of R221 for the doubled systematic component `d = TWO ⊗ c` and the prior `pr`. -/
def F64.extrinsic (d pr : F64) : F64 := F64.sub (F64.sub (F64.add d pr) pr) d

theorem F64.extrinsic_of_isNaN {d pr : F64} (h : F64.isNaN d = true ∨ F64.isNaN pr = true) :
    F64.extrinsic d pr = F64.nan := by
  have hnan := F64.isNaN_nan
  simp only [F64.extrinsic, F64.sub, F64.add_of_isNaN h, F64.add_of_isNaN (.inl hnan)]

/-- An infinity less itself is a NaN. -/
theorem F64.extrinsic_zero_of_isInf {d : F64} (h : F64.isInf d = true) : F64.extrinsic d F64.zero = F64.nan := by
  have hneg : F64.isInf (F64.neg d) = true := by rw [F64.isInf_neg, h]
  rw [F64.extrinsic, F64.sub, F64.sub, F64.add_zero_of_isInf h (by decide), F64.add_zero_of_isInf h (by decide),
    F64.add_of_isInf_left h (F64.isNaN_of_isInf hneg), F64.signBit_neg, if_pos ⟨hneg, Bool.self_ne_not _⟩]

/-- A finite value less itself is a zero, and the minuend, to which +0.0 was added, is no −0.0. -/
theorem F64.extrinsic_zero_of_isFinite {d : F64} (h : F64.isFinite d = true) :
    F64.extrinsic d F64.zero = F64.zero := by
  obtain ⟨hllr, hllrValue⟩ := F64.add_zero_value h (z := F64.zero) (by decide) (by decide)
  obtain ⟨hminuend, hminuendValue⟩ := F64.add_zero_value hllr (z := F64.neg F64.zero) (by decide) (by decide)
  rw [hllrValue] at hminuendValue
  have hsign : (F64.signBit (F64.add (F64.add d F64.zero) (F64.neg F64.zero)) && !F64.signBit d) = false := by
    by_cases hzero : F64.value d = 0
    · have hplus : F64.add d F64.zero = F64.withSign (F64.signBit d && false) 0 :=
        F64.add_of_sum_eq_zero h (by decide) (by rw [hzero]; decide)
      have hstays : F64.signBit (F64.add (F64.withSign false 0) (F64.neg F64.zero)) = false := by decide
      rw [hplus, Bool.and_false, hstays, Bool.false_and]
    · rw [F64.signBit_eq_decide_value_lt hzero, F64.signBit_eq_decide_value_lt (hminuendValue ▸ hzero), hminuendValue,
        Bool.and_not_self]
  rw [F64.extrinsic, F64.sub, F64.sub,
    F64.add_of_sum_eq_zero hminuend (F64.isFinite_neg d ▸ h) (by rw [hminuendValue, F64.value_neg]; omega),
    F64.signBit_neg, hsign]
  rfl

/-- A NaN where `P` holds, +0.0 elsewhere: what R224 says an extrinsic value or a prior is. -/
def F64.ZeroUnless (P : Prop) (x : F64) : Prop := (P → x = F64.nan) ∧ (¬ P → x = F64.zero)

theorem F64.zeroUnless_zero {P : Prop} (h : ¬ P) : F64.ZeroUnless P F64.zero := ⟨fun hP => absurd hP h, fun _ => rfl⟩

theorem F64.ZeroUnless.congr {P Q : Prop} {x : F64} (h : F64.ZeroUnless P x) (hiff : P ↔ Q) : F64.ZeroUnless Q x :=
  propext hiff ▸ h

/-- A component decoder keeps a NaN of its prior and adds one where the doubled component is not finite (R224). -/
theorem F64.extrinsic_zeroUnless {P : Prop} {d pr : F64} (h : F64.ZeroUnless P pr) :
    F64.ZeroUnless (P ∨ F64.isFinite d = false) (F64.extrinsic d pr) := by
  obtain ⟨hpoisoned, hclean⟩ := h
  by_cases hP : P
  · rw [hpoisoned hP, F64.extrinsic_of_isNaN (.inr F64.isNaN_nan)]
    exact ⟨fun _ => rfl, fun h => absurd (.inl hP) h⟩
  · rw [hclean hP]
    refine ⟨fun hor => ?_, fun hnot => ?_⟩
    · have hinfinite := hor.resolve_left hP
      obtain hnan | hinf | hfin := F64.isNaN_or_isInf_or_isFinite d
      · exact F64.extrinsic_of_isNaN (.inl hnan)
      · exact F64.extrinsic_zero_of_isInf hinf
      · exact absurd (hinfinite.symm.trans hfin) Bool.false_ne_true
    · exact F64.extrinsic_zero_of_isFinite (Bool.not_eq_false _ ▸ (not_or.mp hnot).2)

/-- The decision on the LLR is the decision on the component, and 0 where the prior is a NaN (R223, R225). -/
theorem F64.gt_llr_iff {P : Prop} {c pr : F64} (h : F64.ZeroUnless P pr) :
    F64.gt (F64.add (F64.mul F64.two c) pr) F64.zero = true ↔ F64.gt c F64.zero = true ∧ ¬ P := by
  obtain ⟨hpoisoned, hclean⟩ := h
  by_cases hP : P
  · rw [hpoisoned hP, F64.add_of_isNaN (.inr F64.isNaN_nan), F64.gt_zero_of_isNaN F64.isNaN_nan]
    simp [hP]
  · rw [hclean hP, F64.gt_add_zero, F64.gt_mul_two]
    simp [hP]

end Sys2Proof
end

section
/-! SUPPORT. TDEC: its checks as one chain of conditions, and its priors and decisions by index. -/

namespace Sys2Proof.Machine

theorem tdec_wellFormed_of_ne_zero {iter : BitVec 8} (hiter : iter ≠ 0) : (Instr.tdec iter).wellFormed = true :=
  tdec_wellFormed_iff.mpr (Nat.one_le_iff_ne_zero.mpr (BitVec.toNat_ne.mp hiter))

theorem decode_tdec {iter : BitVec 8} (hiter : iter ≠ 0) :
    decode (BitVec.ofNat 32 (iter.toNat * 0x100 + 0x18)) = .ok (.tdec iter) := by
  have hfits : iter.toNat * 0x100 + 0x18 < 2 ^ 32 := by omega
  have hword : encode (.tdec iter) = BitVec.ofNat 32 (iter.toNat * 0x100 + 0x18) :=
    BitVec.eq_of_toNat_eq ((encode_toNat _).trans (Nat.mod_eq_of_lt hfits).symm)
  rw [← hword, decode_encode_of_wellFormed (tdec_wellFormed_of_ne_zero hiter)]

/-- The checks of a TDEC the decoder gives (43_turbo_decoder.md R220). -/
theorem tdecCheck_eq {iter : BitVec 8} (hiter : iter ≠ 0) (s : State) : tdecCheck iter s =
    if ¬ frameLegal s then some (configError .frameLen)
    else if s.csr.ilvValid = false then some ilvInvalidError
    else if s.srcLen ≠ 3 * s.frameN then some ⟨.signalLengthMismatch, s.csr.srcLen⟩
    else none := by
  rw [tdecCheck, if_neg (not_not.mpr (tdec_wellFormed_of_ne_zero hiter)), frameLenCheck_eq, ilvValidCheck_eq]
  split_ifs <;> rfl

/-! A component decoder on sequences given by index (R221). -/

theorem sysComponent_map_range (u p : Nat → F64) (n : Nat) :
    sysComponent ((List.range n).map u) ((List.range n).map p) = (List.range n).map fun i => F64.add (u i) (p i) := by
  simp [sysComponent, List.zipWith_map]

theorem simpLlr_map_range (u p pr : Nat → F64) (n : Nat) :
    simpLlr ((List.range n).map u) ((List.range n).map p) ((List.range n).map pr) = (List.range n).map (refLlr u p pr) := by
  rw [simpLlr, sysComponent_map_range]
  simp [List.zipWith_map, refLlr]

theorem simpExt_map_range (u p pr : Nat → F64) (n : Nat) :
    simpExt ((List.range n).map u) ((List.range n).map p) ((List.range n).map pr) = (List.range n).map (refExt u p pr) := by
  rw [simpExt, simpLlr_map_range, sysComponent_map_range]
  simp [List.zip, List.zipWith_map, refExt]

/-- Interleaving a sequence given by index by a permutation reads it in the order of the table. -/
theorem interleave_map_range {α : Type} (dflt : α) {s : State} (h : s.holdsPermutation) (f : Nat → α) :
    interleave dflt s.perm ((List.range s.frameN).map f) = (List.range s.frameN).map fun k => f (s.ilvEntry k) := by
  rw [interleave, State.perm, List.map_map]
  refine List.map_congr_left fun k hk => ?_
  simp [ilvEntry_lt_of_holdsPermutation h (List.mem_range.mp hk)]

/-! The loop (R220 steps 2 and 3). -/

/-- Element `i` of the prior after `it` iterations on the frame in SRC. -/
def State.prior (s : State) (it i : Nat) : F64 :=
  ((nextPrior s.received)^[it] (List.replicate s.frameN F64.zero)).getD i F64.zero

theorem iterate_nextPrior_length (r : Received) (prior : List F64) (it : Nat) :
    ((nextPrior r)^[it] prior).length = prior.length := by
  induction it with
  | zero => rfl
  | succ it ih => rw [Function.iterate_succ_apply', nextPrior_length, ih]

theorem State.map_prior (s : State) (it : Nat) :
    (List.range s.frameN).map (s.prior it) = (nextPrior s.received)^[it] (List.replicate s.frameN F64.zero) := by
  have hlength := iterate_nextPrior_length s.received (List.replicate s.frameN F64.zero) it
  rw [List.length_replicate] at hlength
  refine List.ext_getElem (by simp [hlength]) fun i _ hi => ?_
  simp [State.prior, hi]

theorem State.prior_zero (s : State) (i : Nat) : s.prior 0 i = F64.zero := by
  simp [State.prior]

/-- Extrinsic value `k` of decoder 2, fed by decoder 1 through the interleaver, from the prior given by index (R220 steps
3a to 3c). -/
def State.secondExt (s : State) (prior : Nat → F64) (k : Nat) : F64 :=
  refExt (fun m => refRs s (s.ilvEntry m)) (refRp2 s) (fun m => refExt (refRs s) (refRp1 s) prior (s.ilvEntry m)) k

theorem nextPrior_map_range {s : State} (h : s.holdsPermutation) (prior : Nat → F64) :
    nextPrior s.received ((List.range s.frameN).map prior) =
      scatter s.perm ((List.range s.frameN).map (s.secondExt prior)) ((List.range s.frameN).map prior) := by
  unfold State.secondExt
  rw [← simpExt_map_range, ← interleave_map_range F64.zero h (refRs s), ← interleave_map_range F64.zero h,
    ← simpExt_map_range]
  rfl

/-- One iteration puts extrinsic value `k` of decoder 2 at entry `k` of the table (R220 step 3d). -/
theorem State.prior_succ {s : State} (h : s.holdsPermutation) (it : Nat) {k : Nat} (hk : k < s.frameN) :
    s.prior (it + 1) (s.ilvEntry k) = s.secondExt (s.prior it) k := by
  obtain ⟨-, hbelow, hnodup⟩ := (holdsPermutation_iff s).mp h
  have hkp : k < s.perm.length := by simpa using hk
  have hget := scatter_getElem?_of_nodup s.perm ((List.range s.frameN).map (s.secondExt (s.prior it)))
    ((List.range s.frameN).map (s.prior it)) k hkp hnodup (by simpa using hbelow) (by simp)
  rw [s.getElem_perm, ← nextPrior_map_range h] at hget
  rw [State.prior, Function.iterate_succ_apply', ← s.map_prior, List.getD_eq_getElem?_getD, hget]
  simp [hk]

theorem lastLlr_succ (r : Received) (it : Nat) : ∀ prior,
    lastLlr r (it + 1) prior = simpLlr r.rs r.rp1 ((nextPrior r)^[it] prior) := by
  induction it with
  | zero => intro prior; rfl
  | succ it ih => intro prior; exact ih _

/-- The bits TDEC decides: those of decoder 1 on the prior before the last iteration (R223). -/
theorem turboDecode_received (s : State) {iters : Nat} (hiters : iters ≠ 0) :
    turboDecode s.received s.frameN iters = (List.range s.frameN).map fun i =>
      F64.gt (refLlr (refRs s) (refRp1 s) (s.prior (iters - 1)) i) F64.zero := by
  obtain ⟨it, rfl⟩ := Nat.exists_eq_succ_of_ne_zero hiters
  have hllr : lastLlr s.received (it + 1) (List.replicate s.frameN F64.zero) =
      (List.range s.frameN).map (refLlr (refRs s) (refRp1 s) (s.prior it)) := by
    rw [← simpLlr_map_range, s.map_prior, lastLlr_succ]
    rfl
  rw [turboDecode, hllr, decideBits, List.map_map]
  rfl

/-! What a TDEC whose checks pass writes. -/

theorem CompletesWith.congr {i : Instr} {s : State} {n : Nat} {out out' : Nat → Byte} {csr : Csr}
    (h : CompletesWith i s n out csr) (hout : ∀ j, j < n → out j = out' j) : CompletesWith i s n out' csr := by
  obtain ⟨t, hexec, hcsr, hdst, hrest⟩ := h
  exact ⟨t, hexec, hcsr, fun j hj => (hdst j hj).trans (hout j hj), hrest⟩

/-- A TDEC whose checks pass writes the decisions on the last prior. -/
theorem completesWith_tdec {iter : BitVec 8} {s : State} (hiter : iter ≠ 0) (hframe : frameLegal s)
    (hvalid : s.csr.ilvValid = true) (hlength : s.srcLen = 3 * s.frameN) :
    CompletesWith (.tdec iter) s s.frameN
      (fun i => bitCell (F64.gt (refLlr (refRs s) (refRp1 s) (s.prior (iter.toNat - 1)) i) F64.zero))
      { s.csr with dstLen := BitVec.ofNat 32 s.frameN } := by
  have hpass : tdecCheck iter s = none := by
    rw [tdecCheck_eq hiter, if_neg (not_not.mpr hframe), if_neg (by simp [hvalid]), if_neg (not_not.mpr hlength)]
  exact completesWith_of_effect hpass (tdecEffect_writes hpass) fun j hj => by
    simp [commandEffect, tdecEffect, turboDecode_received s (BitVec.toNat_ne.mp hiter), bitsToCells]

end Sys2Proof.Machine
end

section
/-! SUPPORT. The closed form of TDEC: the poisoned set and the priors over it, and the frame in the layout of TENC under a
noiseless-channel proxy. -/

namespace Sys2Proof.Machine

/-! The poisoned set (43_turbo_decoder.md R224, R225). -/

/-- Every position of the frame is an entry of the table. -/
theorem exists_ilvEntry_eq {s : State} (h : s.holdsPermutation) {i : Nat} (hi : i < s.frameN) :
    ∃ k, k < s.frameN ∧ s.ilvEntry k = i := by
  obtain ⟨-, hbelow, hnodup⟩ := (holdsPermutation_iff s).mp h
  have hperm : s.perm.Perm (List.range s.frameN) :=
    (List.subperm_of_subset hnodup fun p hp => List.mem_range.mpr (hbelow p hp)).perm_of_length_le (by simp)
  simpa [State.perm] using hperm.mem_iff.mpr (List.mem_range.mpr hi)

/-- At an entry of the table the poisoned set is about that entry only, since no entry repeats. -/
theorem poisoned_ilvEntry_iff {s : State} (h : s.holdsPermutation) {k : Nat} (hk : k < s.frameN) :
    poisoned s (s.ilvEntry k) ↔ F64.isFinite (F64.mul F64.two (refC1 s (s.ilvEntry k))) = false ∨
      F64.isFinite (F64.mul F64.two (refC2 s k)) = false := by
  obtain ⟨-, -, hinjective⟩ := h
  refine or_congr_right ⟨?_, fun hinfinite => ⟨k, hk, rfl, hinfinite⟩⟩
  rintro ⟨m, hm, heq, hinfinite⟩
  rwa [← hinjective m hm k hk heq]

/-- `ext` of R221 looks at the systematic and the parity input only through their doubled sum. -/
theorem refExt_eq_extrinsic (u p pr : Nat → F64) (i : Nat) :
    refExt u p pr i = F64.extrinsic (F64.mul F64.two (F64.add (u i) (p i))) (pr i) := rfl

/-- One iteration adds the poisoned positions to those where its prior is a NaN (R225). -/
theorem prior_succ_zeroUnless {s : State} (h : s.holdsPermutation) {it : Nat} {P : Nat → Prop}
    (hprior : ∀ i, i < s.frameN → F64.ZeroUnless (P i) (s.prior it i)) {i : Nat} (hi : i < s.frameN) :
    F64.ZeroUnless (P i ∨ poisoned s i) (s.prior (it + 1) i) := by
  obtain ⟨k, hk, rfl⟩ := exists_ilvEntry_eq h hi
  rw [State.prior_succ h it hk, State.secondExt, refExt_eq_extrinsic, refExt_eq_extrinsic, poisoned_ilvEntry_iff h hk,
    ← or_assoc]
  exact F64.extrinsic_zeroUnless (F64.extrinsic_zeroUnless (hprior _ hi))

/-- After the first iteration the prior is a NaN on the poisoned set and +0.0 elsewhere, and stays so (R225). -/
theorem prior_zeroUnless_poisoned {s : State} (h : s.holdsPermutation) (it : Nat) :
    ∀ i, i < s.frameN → F64.ZeroUnless (it ≠ 0 ∧ poisoned s i) (s.prior it i) := by
  induction it with
  | zero => exact fun i _ => s.prior_zero i ▸ F64.zeroUnless_zero (by simp)
  | succ it ih => exact fun i hi => (prior_succ_zeroUnless h ih hi).congr (by tauto)

/-- The closed form of a TDEC whose checks pass (R225). -/
theorem decision_iff {s : State} (h : s.holdsPermutation) (it : Nat) {i : Nat} (hi : i < s.frameN) :
    F64.gt (refLlr (refRs s) (refRp1 s) (s.prior it) i) F64.zero = true ↔
      F64.gt (refC1 s i) F64.zero = true ∧ (it = 0 ∨ ¬ poisoned s i) := by
  rw [← not_ne_iff (a := it), ← not_and_or]
  exact F64.gt_llr_iff (prior_zeroUnless_poisoned h it i hi)

theorem bitCell_eq_one_iff (b : Bool) : bitCell b = 1 ↔ b = true := by cases b <;> decide

theorem bitCell_eq_zero_or_one (b : Bool) : bitCell b = 0 ∨ bitCell b = 1 := by cases b <;> decide

/-! The noiseless-channel proxies (R226). -/

/-- The sum of two equal proxies doubles to a finite value and is positive exactly for the bit 1 (R226). -/
theorem refProxy_add_self : ∀ pm bit : Bool,
    F64.isFinite (F64.mul F64.two (F64.add (refProxy pm bit) (refProxy pm bit))) = true ∧
      F64.gt (F64.add (refProxy pm bit) (refProxy pm bit)) F64.zero = bit := by decide +kernel

/-- TDEC gives back the bits whose proxy image, in the layout of TENC, stands in SRC (R226). -/
theorem completesWith_tdec_of_proxy {iter : BitVec 8} {s : State} {pm : Bool} {x : Nat → Bool} (hiter : iter ≠ 0)
    (hvalid : s.csr.ilvValid = true) (hperm : s.holdsPermutation) (hlength : s.srcLen = 3 * s.frameN)
    (himage : ∀ i, i < s.frameN → s.src64 i = refProxy pm (x i) ∧ s.src64 (s.frameN + i) = refProxy pm (x i) ∧
      s.src64 (2 * s.frameN + i) = refProxy pm (x (s.ilvEntry i))) :
    CompletesWith (.tdec iter) s s.frameN (fun i => bitCell (x i))
      { s.csr with dstLen := BitVec.ofNat 32 s.frameN } := by
  have hc1 (i : Nat) (hi : i < s.frameN) : refC1 s i = F64.add (refProxy pm (x i)) (refProxy pm (x i)) := by
    obtain ⟨hsys, hpar, -⟩ := himage i hi
    rw [refC1, refRs, refRp1, hsys, hpar]
  have hc2 (k : Nat) (hk : k < s.frameN) :
      refC2 s k = F64.add (refProxy pm (x (s.ilvEntry k))) (refProxy pm (x (s.ilvEntry k))) := by
    obtain ⟨hsys, -⟩ := himage _ (ilvEntry_lt_of_holdsPermutation hperm hk)
    obtain ⟨-, -, hpar⟩ := himage k hk
    rw [refC2, refRs, refRp2, hsys, hpar]
  have hclean (i : Nat) (hi : i < s.frameN) : ¬ poisoned s i := by
    obtain ⟨k, hk, rfl⟩ := exists_ilvEntry_eq hperm hi
    rw [poisoned_ilvEntry_iff hperm hk, hc1 _ hi, hc2 k hk, (refProxy_add_self pm _).1]
    simp
  refine (completesWith_tdec hiter hperm.1 hvalid hlength).congr fun i hi => congrArg bitCell ?_
  rw [Bool.eq_iff_iff, decision_iff hperm _ hi, hc1 i hi, (refProxy_add_self pm _).2]
  simp [hclean i hi]

/-- The table of a state with the same FRAME_LEN and the same entries holds the same permutation. -/
theorem holdsPermutation_of_ilvEntry_eq {s u : State} (h : s.holdsPermutation) (hN : u.frameN = s.frameN)
    (htable : ∀ k, k < s.frameN → u.ilvEntry k = s.ilvEntry k) : u.holdsPermutation := by
  have hperm : u.perm = s.perm := by
    rw [State.perm, hN, State.perm]
    exact List.map_congr_left fun k hk => htable k (List.mem_range.mp hk)
  rw [holdsPermutation_iff] at h ⊢
  rwa [frameLegal, hN, hperm]

/-- The thirds of what TENC writes: the frame, the frame, and the interleaved frame (42_turbo_encoder.md R199, R200). -/
theorem exists_exec_tenc_thirds {s : State} (hframe : frameLegal s) (hconstraint : constraintOk s) (htaps : tapsOk s)
    (hvalid : s.csr.ilvValid = true) (hlength : s.srcLen = s.frameN) (hbinary : binarySrc s s.frameN)
    (hkept : s.interleaverKept) :
    ∃ t, exec .tenc s = .next t ∧ ∀ i, i < s.frameN → t.dst8 i = s.src8 i ∧ t.dst8 (s.frameN + i) = s.src8 i ∧
      t.dst8 (2 * s.frameN + i) = s.src8 (s.ilvEntry i) := by
  obtain ⟨-, hrule⟩ := tencFollowsItsRule
  obtain ⟨-, hsucceeds⟩ := hrule s
  obtain ⟨-, -, -, -, t, hexec, -, hdst, -⟩ := hsucceeds hframe hconstraint htaps hvalid hlength hbinary hkept
  beta_reduce at hdst
  refine ⟨t, hexec, fun i hi => ⟨?_, ?_, ?_⟩⟩
  · rw [hdst i (by omega), if_pos (by omega), Nat.mod_eq_of_lt hi]
  · rw [hdst (s.frameN + i) (by omega), if_pos (by omega), Nat.add_mod_left, Nat.mod_eq_of_lt hi]
  · rw [hdst (2 * s.frameN + i) (by omega), if_neg (by omega), Nat.add_sub_cancel_left]

end Sys2Proof.Machine
end

section
/-! 43_turbo_decoder.md settled: the loop of TDEC, its closed form and the round trip with TENC. -/

namespace Sys2Proof.Machine

/-- Settles O16: the chain of checks; the priors are the iterates of the loop, read by index. -/
theorem tdecFollowsItsRule : Obligations.TdecFollowsItsRule := by
  refine ⟨not_exists.mp (mt (legalWordsByFields _).mp (by decide)), fun iter s hiter => ⟨decode_tdec hiter, ?_, ?_⟩⟩
  · have hfails {e : CmdError} (h : tdecCheck iter s = some e) : FailsWith (.tdec iter) s e.kind.code e.info :=
      failsWith_of_failingCheck (by simp) h
    rw [tdecCheck_eq hiter] at hfails
    split_ifs at hfails ⊢ with hframe hinvalid hlength
    · exact hfails rfl
    · exact fun _ => hfails rfl
    · exact fun hdiffers => absurd hdiffers hlength
    · exact hfails rfl
  · intro hframe hvalid hlength hkept
    exact ⟨s.prior, fun i _ => s.prior_zero i, fun it _ k hk => State.prior_succ (hkept hvalid) it hk,
      completesWith_tdec hiter hframe hvalid hlength⟩

/-- Settles O33: the last prior is +0.0 off the poisoned set, where the decision is that on `c1`, and a NaN on it, except in
the first iteration, whose prior is +0.0. -/
theorem tdecHasItsClosedForm : Obligations.TdecHasItsClosedForm := by
  intro iter s hiter hvalid hkept hlength
  have hperm := hkept hvalid
  obtain ⟨t, hexec, -, hout, -⟩ := completesWith_tdec hiter hperm.1 hvalid hlength
  have hfirst : iter.toNat - 1 = 0 ↔ iter = 1 := by
    have hone : (1 : BitVec 8).toNat = 1 := rfl
    have hpos : iter.toNat ≠ 0 := BitVec.toNat_ne.mp hiter
    rw [← BitVec.toNat_inj, hone]
    omega
  refine ⟨t, hexec, fun i hi => ?_⟩
  rw [hout i hi]
  exact ⟨bitCell_eq_zero_or_one _, by rw [bitCell_eq_one_iff, decision_iff hperm _ hi, hfirst]⟩

/-- Settles O34: over either proxy no position is poisoned and the component has the sign of the bit; TENC writes the frame,
the frame and the interleaved frame. -/
theorem tdecUndoesTencOverAProxy : Obligations.TdecUndoesTencOverAProxy := by
  refine ⟨fun iter pm x s hiter hvalid hkept hlength himage => ?_, ?_⟩
  · obtain ⟨t, hexec, hcsr, hout, -⟩ := completesWith_tdec_of_proxy hiter hvalid (hkept hvalid) hlength himage
    exact ⟨t, hexec, by rw [hcsr]; exact BitVec.ofNat_toNat .., hout⟩
  · intro iter pm s u hiter hframe hconstraint htaps hvalid hkept hlength hbinary huvalid hulen htable hulength
    have hN : u.frameN = s.frameN := by rw [State.frameN, hulen, State.frameN]
    obtain ⟨t, hexec, hthirds⟩ := exists_exec_tenc_thirds hframe hconstraint htaps hvalid hlength hbinary hkept
    refine ⟨t, hexec, fun himage => ?_⟩
    have hcell (m : Nat) (hm : m < 3 * s.frameN) : u.src64 m = refProxy pm (cellBit (t.dst8 m)) := himage m hm
    have hsoft : ∀ i, i < u.frameN → u.src64 i = refProxy pm (cellBit (s.src8 i)) ∧
        u.src64 (u.frameN + i) = refProxy pm (cellBit (s.src8 i)) ∧
        u.src64 (2 * u.frameN + i) = refProxy pm (cellBit (s.src8 (u.ilvEntry i))) := by
      rw [hN]
      intro i hi
      obtain ⟨hsys, hpar1, hpar2⟩ := hthirds i hi
      rw [hcell i (by omega), hcell (s.frameN + i) (by omega), hcell (2 * s.frameN + i) (by omega), hsys, hpar1, hpar2,
        htable i hi]
      exact ⟨rfl, rfl, rfl⟩
    obtain ⟨v, hrun, hcsr, hout, -⟩ := completesWith_tdec_of_proxy hiter huvalid
      (holdsPermutation_of_ilvEntry_eq (hkept hvalid) hN htable) (hN ▸ hulength) hsoft
    refine ⟨v, hrun, by rw [hcsr], ?_, fun i hi => ?_⟩
    · rw [hcsr, hN, ← hlength]
      exact (BitVec.ofNat_toNat ..).trans (BitVec.setWidth_eq _)
    · exact (hout i (hN ▸ hi)).trans (bitCell_cellBit (hbinary i hi))

end Sys2Proof.Machine
end

section
/-! SUPPORT. What 44_ask_modem.md R251 to R253 need of binary64: rounding a representable magnitude, the conversion of an
integer, products with 1.0 and with a zero, and the quiet NaNs a command writes out. -/

namespace Sys2Proof

/-! Rounding is exact on what is representable. -/

theorem F64.roundShift_mul_two_pow (q d : Nat) : F64.roundShift (q * 2 ^ d) d = q := by
  have hpos : 0 < 2 ^ d := by positivity
  simp [F64.roundShift, Nat.shiftRight_eq_div_pow, Nat.one_shiftLeft, Nat.mul_div_cancel _ hpos, hpos.ne]

/-- The last place of a significand `q` at `t` binades is `t`, whatever the fraction bits. -/
theorem F64.lastPlace_significand {t q : Nat} (sh : Nat) (hq : q < 2 ^ 53) (hnormal : t = 0 ∨ 2 ^ 52 ≤ q) :
    F64.lastPlace (q * 2 ^ t * 2 ^ sh) sh = t := by
  rw [F64.lastPlace, mul_assoc, ← pow_add]
  obtain rfl | hpos := eq_or_ne q 0
  · obtain rfl : t = 0 := by omega
    simp
  · have hm : q * 2 ^ (t + sh) ≠ 0 := Nat.mul_ne_zero hpos (by positivity)
    have hupper : (q * 2 ^ (t + sh)).log2 < 53 + (t + sh) := (Nat.log2_lt hm).mpr (by
      rw [pow_add 2 53]
      exact Nat.mul_lt_mul_of_pos_right hq (by positivity))
    obtain rfl | hhigh := hnormal
    · omega
    · have hlower : 52 + (t + sh) ≤ (q * 2 ^ (t + sh)).log2 := (Nat.le_log2 hm).mpr (by
        rw [pow_add 2 52]
        exact Nat.mul_le_mul_right _ hhigh)
      omega

/-- Rounding a significand `q` at `t` binades packs it as it is. -/
theorem F64.round_significand (neg : Bool) {t q : Nat} (sh : Nat) (hq : q < 2 ^ 53) (hnormal : t = 0 ∨ 2 ^ 52 ≤ q) :
    F64.round neg (q * 2 ^ t * 2 ^ sh) sh = F64.withSign neg (min F64.infMag (t * 2 ^ 52 + q)) := by
  have hshift : q * 2 ^ t * 2 ^ sh = q * 2 ^ (sh + t) := by rw [mul_assoc, ← pow_add, add_comm]
  rw [F64.round_eq_withSign_min, F64.roundMag, F64.significand, F64.lastPlace_significand sh hq hnormal, hshift,
    F64.roundShift_mul_two_pow]

/-- A pattern is its sign bit and its magnitude. -/
theorem F64.withSign_signBit_mag (x : F64) : F64.withSign (F64.signBit x) (F64.mag x) = x := by
  apply BitVec.eq_of_toNat_eq
  have hlt : x.toNat < 2 ^ 64 := x.isLt
  rw [F64.toNat_withSign _ (F64.mag_lt x), F64.signBit, ← BitVec.msb_eq_getLsbD_last x, BitVec.msb_eq_decide, F64.mag]
  simp only [decide_eq_true_eq]
  split <;> omega

/-- Rounding the magnitude of a finite value, with its sign, gives the value back. -/
theorem F64.round_units {x : F64} (sh : Nat) (h : F64.isFinite x = true) :
    F64.round (F64.signBit x) (F64.units x * 2 ^ sh) sh = x := by
  obtain ⟨t, q, hmag, hq, hnormal, hunits⟩ := F64.exists_significand x
  rw [F64.isFinite_iff_mag] at h
  rw [hunits, F64.round_significand _ sh hq hnormal, ← hmag, Nat.min_eq_right h.le, F64.withSign_signBit_mag]

/-! The conversion of an integer (R252). -/

/-- Shifted to the top of the significand, an integer of at most 53 bits is normal. -/
theorem F64.exists_normal_significand {n : Nat} (hpos : n ≠ 0) (h : n < 2 ^ 53) :
    ∃ t q, t ≤ 1074 ∧ 2 ^ 52 ≤ q ∧ q < 2 ^ 53 ∧ n <<< 1074 = q * 2 ^ t := by
  have hlog : n.log2 < 53 := (Nat.log2_lt hpos).mpr h
  have hlower : 2 ^ n.log2 ≤ n := Nat.log2_self_le hpos
  have hupper : n < 2 ^ (n.log2 + 1) := Nat.lt_log2_self
  refine ⟨1022 + n.log2, n * 2 ^ (52 - n.log2), by omega, ?_, ?_, ?_⟩
  · calc 2 ^ 52 = 2 ^ n.log2 * 2 ^ (52 - n.log2) := by rw [← pow_add]; congr 1; omega
      _ ≤ n * 2 ^ (52 - n.log2) := Nat.mul_le_mul_right _ hlower
  · calc n * 2 ^ (52 - n.log2) < 2 ^ (n.log2 + 1) * 2 ^ (52 - n.log2) :=
          Nat.mul_lt_mul_of_pos_right hupper (by positivity)
      _ = 2 ^ 53 := by rw [← pow_add]; congr 1; omega
  · rw [Nat.shiftLeft_eq, mul_assoc, ← pow_add]
    congr 2
    omega

/-- An integer of at most 53 bits converts to a finite value of no sign, without rounding. -/
theorem F64.ofNat_exact {n : Nat} (h : n < 2 ^ 53) :
    F64.isFinite (F64.ofNat n) = true ∧ F64.signBit (F64.ofNat n) = false ∧
      F64.units (F64.ofNat n) = n <<< 1074 := by
  obtain rfl | hpos := eq_or_ne n 0
  · rw [Nat.zero_shiftLeft]
    decide
  · obtain ⟨t, q, ht, hlow, hhigh, hshift⟩ := F64.exists_normal_significand hpos h
    have hfits : t * 2 ^ 52 + q < F64.infMag := by rw [F64.infMag]; omega
    have hround : F64.ofNat n = F64.withSign false (t * 2 ^ 52 + q) := by
      have hpacked := F64.round_significand false 0 hhigh (t := t) (.inr hlow)
      rw [pow_zero, mul_one, ← hshift, Nat.min_eq_right hfits.le] at hpacked
      rw [F64.ofNat, if_neg hpos, hpacked]
    have hbits : t * 2 ^ 52 + q < 2 ^ 63 := hfits.trans (by decide)
    have hmag : F64.mag (F64.ofNat n) = t * 2 ^ 52 + q := by rw [hround, F64.mag_withSign false hbits]
    refine ⟨(F64.isFinite_iff_mag _).mpr (hmag ▸ hfits), by rw [hround, F64.signBit_withSign false hbits], ?_⟩
    exact (F64.units_of_mag hmag hhigh.le (.inr hlow)).trans hshift.symm

theorem F64.value_ofNat {n : Nat} (h : n < 2 ^ 53) : F64.value (F64.ofNat n) = n * 2 ^ 1074 := by
  obtain ⟨-, hsign, hunits⟩ := F64.ofNat_exact h
  have hcast (k : Nat) : ((n <<< k : Nat) : Int) = n * 2 ^ k := by simp [Nat.shiftLeft_eq]
  rw [F64.value_eq_signed, hsign, hunits, ← hcast]
  rfl

/-! Products with 1.0 and with a zero (R251, R253). -/

theorem F64.units_one : F64.units F64.one = 2 ^ 1074 := by
  rw [F64.units_of_mag (x := F64.one) (t := 1022) (q := 2 ^ 52) (by decide) (by decide) (.inr le_rfl), ← pow_add]

theorem F64.mul_one_left {c : F64} (h : F64.isFinite c = true) : F64.mul F64.one c = c := by
  have hsign : (F64.signBit F64.one != F64.signBit c) = F64.signBit c := Bool.false_bne _
  rw [F64.mul_of_isFinite (by decide) h, hsign, F64.units_one, mul_comm, F64.round_units 1074 h]

/-- A zero times a finite value is a zero. -/
theorem F64.mul_of_units_eq_zero {a b : F64} (ha : F64.isFinite a = true) (hb : F64.isFinite b = true)
    (hzero : F64.units a = 0) : F64.mul a b = F64.withSign (F64.signBit a != F64.signBit b) 0 := by
  rw [F64.mul_of_isFinite ha hb, hzero, Nat.zero_mul, F64.round_zero]

theorem F64.isFinite_and_units_withSign_zero (neg : Bool) :
    F64.isFinite (F64.withSign neg 0) = true ∧ F64.units (F64.withSign neg 0) = 0 := by
  cases neg <;> decide

theorem F64.abs_withSign_zero (neg : Bool) : F64.abs (F64.withSign neg 0) = F64.zero := by
  cases neg <;> decide

/-- A product of finite values may overflow, but it is no NaN. -/
theorem F64.isNaN_mul_of_isFinite {a b : F64} (ha : F64.isFinite a = true) (hb : F64.isFinite b = true) :
    F64.isNaN (F64.mul a b) = false := by
  rw [F64.mul_of_isFinite ha hb, F64.isNaN_round]

/-! The quiet NaN a command writes out (00_scope.md R14). -/

theorem F64.isNaN_quietNaN (free : BitVec 52) : F64.isNaN (F64.quietNaN free) = true := by
  rw [F64.isNaN_iff_mag, F64.mag, F64.infMag, F64.quietNaN, Machine.toNat_append_eq, Machine.toNat_append_eq]
  simp only [BitVec.extractLsb'_toNat, BitVec.toNat_ofNat]
  omega

theorem F64.getLsbD_quietNaN (free : BitVec 52) : (F64.quietNaN free).getLsbD 51 = true := by
  rw [F64.quietNaN, BitVec.getLsbD_append, BitVec.getLsbD_append]
  simp

end Sys2Proof
end

section
/-! SUPPORT. A command that writes binary64 elements: reading back the elements it wrote, each a NaN or exactly the value
computed (00_scope.md R11, R14). -/

namespace Sys2Proof.Machine

/-- A completion with a result stores each part of its output where the part belongs. -/
theorem completeOk_readBytes (e : Effect) (s : State) {off n : Nat} (h : off + n ≤ e.dst.length) :
    (completeOk e s).readBytes (Region.dst.base + off) n = (e.dst.drop off).take n := by
  refine List.ext_getElem (by simp [State.readBytes]; omega) fun i hi _ => ?_
  have hin : off + i < e.dst.length := by simp [State.readBytes] at hi; omega
  simp [State.readBytes, Nat.add_assoc, completeOk_readByte_inside e s hin]

theorem f64Bytes_cons (x : F64) (xs : List F64) : f64Bytes (x :: xs) = leBytes 8 x.toNat ++ f64Bytes xs :=
  List.flatMap_cons

/-- Element `j` of a binary64 sequence stands at bytes `8j` to `8j + 7`. -/
theorem f64Bytes_drop_take (xs : List F64) : ∀ j (hj : j < xs.length),
    ((f64Bytes xs).drop (8 * j)).take 8 = leBytes 8 xs[j].toNat := by
  induction xs with
  | nil => intro j hj; exact absurd hj (Nat.not_lt_zero j)
  | cons x xs ih =>
    intro j hj
    rw [f64Bytes_cons]
    cases j with
    | zero => exact List.take_left' (leBytes_length 8 x.toNat)
    | succ j =>
      have hskip : 8 * (j + 1) = (leBytes 8 x.toNat).length + 8 * j := by rw [leBytes_length]; omega
      rw [hskip, List.drop_length_add_append]
      exact ih j (by simpa using hj)

/-- Reading back element `j` of a binary64 output. -/
theorem completeOk_f64At {e : Effect} (s : State) {xs : List F64} (hdst : e.dst = f64Bytes xs) {j : Nat}
    (hj : j < xs.length) : (completeOk e s).f64At .dst j = xs[j] := by
  have hin : 8 * j + 8 ≤ e.dst.length := by rw [hdst, f64Bytes_length]; omega
  have hfits : xs[j].toNat < 256 ^ 8 := xs[j].isLt
  rw [State.f64At, memRead, completeOk_readBytes e s hin, hdst, f64Bytes_drop_take xs j hj, leNat_leBytes,
    Nat.mod_eq_of_lt hfits, BitVec.ofNat_toNat, BitVec.setWidth_eq]

/-- A released value is the value itself, or for a NaN some quiet NaN. -/
theorem released_quiet_or_eq (free : BitVec 52) (x : F64) :
    if F64.isNaN x = true then
      F64.isNaN (F64.released free x) = true ∧ (F64.released free x).getLsbD 51 = true
    else F64.released free x = x := by
  rw [F64.released]
  split
  · exact ⟨F64.isNaN_quietNaN free, F64.getLsbD_quietNaN free⟩
  · rfl

/-- A command whose checks pass and whose output is a released binary64 sequence completes with that sequence. -/
theorem completesWithF64_of_effect {i : Instr} {s : State} {n : Nat} {xs : List F64} {out : Nat → F64}
    (hpass : failingCheck i s = none) (hdst : (commandEffect i s).dst = f64Bytes (releasedF64s s xs))
    (hlength : xs.length = n) (hout : ∀ j (hj : j < xs.length), xs[j] = out j) :
    CompletesWithF64 i s n out (commandEffect i s).csr := by
  subst hlength
  have hbytes : (commandEffect i s).dst.length = 8 * xs.length := by
    rw [hdst, f64Bytes_length, releasedF64s_length]
  refine ⟨completeOk (commandEffect i s) s, exec_ok hpass, completeOk_csr .., fun j hj => ?_, fun a ha => ?_,
    rfl, rfl, rfl, rfl, rfl⟩
  · have hread : (completeOk (commandEffect i s) s).f64At .dst j = F64.released (Config.nanBits s.completions j) xs[j] := by
      rw [completeOk_f64At s hdst (by simpa using hj)]
      exact List.getElem_mapIdx
    rw [hread, ← hout j hj]
    exact released_quiet_or_eq _ _
  · exact completeOk_readByte_outside _ s (hbytes ▸ ha)

/-- Where no computed element is a NaN, the output is exactly what was computed. -/
theorem CompletesWithF64.exists_exact {i : Instr} {s : State} {n : Nat} {out : Nat → F64} {csr : Csr}
    (h : CompletesWithF64 i s n out csr) (hnum : ∀ j, j < n → F64.isNaN (out j) = false) :
    ∃ t, exec i s = .next t ∧ ∀ j, j < n → t.f64At .dst j = out j := by
  obtain ⟨t, hexec, -, hout, -⟩ := h
  exact ⟨t, hexec, fun j hj => (if_neg (Bool.eq_false_iff.mp (hnum j hj))).mp (hout j hj)⟩

/-- A count as a detail: the model's saturation is the rule's minimum (60_exceptions.md R330). -/
theorem sat32_eq_saturated (n : Nat) : sat32 n = saturated n := by
  rw [sat32, saturated]
  split
  · next hlarge => rw [Nat.min_eq_right hlarge.le]; rfl
  · next hsmall => rw [Nat.min_eq_left (Nat.not_lt.mp hsmall)]

end Sys2Proof.Machine
end

section
/-! SUPPORT. The ASK modem: its checks as one chain of conditions each, its samples and its correlations by index. -/

namespace Sys2Proof.Machine

/-! Checks (44_ask_modem.md R251, R252; 60_exceptions.md R332). -/

theorem spbLegal_iff (s : State) : s.csr.spbLegal = true ↔ spbOk s := by
  simp only [Csr.spbLegal, Bool.and_eq_true, decide_eq_true_eq]
  rfl

theorem amodCheck_eq (s : State) : amodCheck s =
    if ¬ spbOk s then some (configError .askSpb)
    else if 0x100000 < s.srcLen then some ⟨.capacityExceeded, s.csr.srcLen⟩
    else if 0x100000 < 8 * s.srcLen * s.spb then some ⟨.capacityExceeded, saturated (s.srcLen * s.spb)⟩
    else nonBinaryError .invalidBit (s.srcBytes s.srcLen) := by
  simp only [amodCheck, spbLegal_iff, sat32_eq_saturated]
  rfl

theorem ademCheck_eq (s : State) : ademCheck s =
    if ¬ spbOk s then some (configError .askSpb)
    else if s.srcLen % s.spb ≠ 0 then some ⟨.segmentAlignment, s.csr.srcLen⟩
    else if 0x100000 < 8 * s.srcLen then some ⟨.capacityExceeded, s.csr.srcLen⟩
    else none := by
  simp only [ademCheck, spbLegal_iff]
  rfl

/-! Modulation (R251). -/

/-- Element `m` of block `n`, for blocks of `k` elements each. -/
theorem blockIndex_div_mod (n : Nat) {m k : Nat} (hm : m < k) : (n * k + m) / k = n ∧ (n * k + m) % k = m :=
  (Nat.div_mod_unique (by omega)).mpr ⟨by ring, hm⟩

/-- `n` blocks of `k` elements each, as one sequence by index. -/
theorem flatMap_range_map_range {α : Type} (f : Nat → Nat → α) (n k : Nat) :
    (List.range n).flatMap (fun i => (List.range k).map (f i)) =
      (List.range (n * k)).map fun m => f (m / k) (m % k) := by
  induction n with
  | zero => simp
  | succ n ih =>
    rw [List.range_succ, List.flatMap_append, ih, Nat.succ_mul, List.range_add, List.map_append, List.map_map,
      List.flatMap_singleton]
    refine congrArg _ (List.map_congr_left fun m hm => ?_)
    obtain ⟨hdiv, hmod⟩ := blockIndex_div_mod n (List.mem_range.mp hm)
    rw [Function.comp_apply, hdiv, hmod]

/-- Sample `m` of the signal AMOD makes of SRC (R251). -/
def State.askSample (s : State) (m : Nat) : F64 :=
  F64.mul (if s.src8 (m / s.spb) = 1 then F64.one else F64.zero) (s.f64At .acar (m % s.spb))

theorem askModulate_srcBits (s : State) (n : Nat) :
    askModulate (s.table .acar s.spb) (s.srcBits n) = (List.range (n * s.spb)).map s.askSample := by
  unfold State.askSample
  rw [← flatMap_range_map_range fun i k =>
    F64.mul (if s.src8 i = 1 then F64.one else F64.zero) (s.f64At .acar k)]
  simp [askModulate, askBurst, State.table, State.srcBits_eq_map, List.flatMap_map, cellBit, Function.comp_def]

theorem State.askSample_add (s : State) (j : Nat) {n : Nat} (hn : n < s.spb) : s.askSample (j * s.spb + n) =
    F64.mul (if s.src8 j = 1 then F64.one else F64.zero) (s.f64At .acar n) := by
  obtain ⟨hdiv, hmod⟩ := blockIndex_div_mod j hn
  rw [State.askSample, hdiv, hmod]

/-- An AMOD whose checks pass writes the samples. -/
theorem completesWithF64_amod {s : State} (hspb : spbOk s) (hroom : 8 * s.srcLen * s.spb ≤ 0x100000)
    (hbinary : binarySrc s s.srcLen) :
    CompletesWithF64 .amod s (s.srcLen * s.spb) s.askSample
      { s.csr with dstLen := BitVec.ofNat 32 (s.srcLen * s.spb) } := by
  have hbits : ¬ 0x100000 < s.srcLen := by
    have hone : 8 * s.srcLen ≤ 8 * s.srcLen * s.spb := Nat.le_mul_of_pos_right _ hspb.1
    omega
  have hpass : amodCheck s = none := by
    rw [amodCheck_eq, if_neg (not_not.mpr hspb), if_neg hbits, if_neg (Nat.not_lt.mpr hroom),
      nonBinaryError_srcBytes_eq_none _ hbinary]
  have hdst : (amodEffect s).dst = f64Bytes (releasedF64s s ((List.range (s.srcLen * s.spb)).map s.askSample)) := by
    rw [amodEffect, askModulate_srcBits]
  exact completesWithF64_of_effect hpass hdst (by simp) fun j hj => by simp

/-! Demodulation (R252). -/

/-- The correlation of the samples `r 0, r 1, …` with the carrier `c 0, c 1, …` after `n` steps of R252's loop. -/
def correlation (r c : Nat → F64) : Nat → F64
  | 0 => F64.zero
  | n + 1 => F64.add (correlation r c n) (F64.abs (F64.mul (r n) (c n)))

theorem askCorrelate_map_range (r c : Nat → F64) (n : Nat) :
    askCorrelate ((List.range n).map c) ((List.range n).map r) = correlation r c n := by
  rw [askCorrelate, List.zipWith_map, List.zipWith_self]
  induction n with
  | zero => rfl
  | succ n ih => simp only [List.range_succ, List.map_append, List.foldl_append, ih]; rfl

theorem correlation_congr {r r' c c' : Nat → F64} (n : Nat) (hr : ∀ m, m < n → r m = r' m)
    (hc : ∀ m, m < n → c m = c' m) : correlation r c n = correlation r' c' n := by
  induction n with
  | zero => rfl
  | succ n ih =>
    rw [correlation, correlation, ih (fun m hm => hr m (by omega)) (fun m hm => hc m (by omega)), hr n n.lt_succ_self,
      hc n n.lt_succ_self]

/-- Element `n` of segment `j` of the received samples (R252). -/
def State.segmentSample (s : State) (j n : Nat) : F64 := s.src64 (j * s.spb + n)

theorem askDecide_askSegment (s : State) (j : Nat) : askDecide (s.table .acar s.spb) (s.askSegment j) s.spb =
    F64.gt (correlation (s.segmentSample j) (s.f64At .acar) s.spb) (askThreshold s.spb) := by
  rw [askDecide, ← askCorrelate_map_range]
  rfl

/-- An ADEM whose checks pass writes the decision of each segment. -/
theorem completesWith_adem {s : State} (hspb : spbOk s) (haligned : s.srcLen % s.spb = 0)
    (hroom : 8 * s.srcLen ≤ 0x100000) :
    CompletesWith .adem s (s.srcLen / s.spb)
      (fun j => if F64.gt (correlation (s.segmentSample j) (s.f64At .acar) s.spb) (askThreshold s.spb) = true then 1 else 0)
      { s.csr with dstLen := BitVec.ofNat 32 (s.srcLen / s.spb) } := by
  have hpass : ademCheck s = none := by
    rw [ademCheck_eq, if_neg (not_not.mpr hspb), if_neg (not_not.mpr haligned), if_neg (Nat.not_lt.mpr hroom)]
  exact completesWith_of_effect hpass (ademEffect_writes hpass) fun j hj => by
    simp [commandEffect, ademEffect, bitsToCells, askDecide_askSegment, bitCell]

/-! The round trip (R253). -/

/-- The threshold is no negative value, so a correlation of +0.0 is not above it. -/
theorem not_gt_zero_askThreshold {n : Nat} (h : n < 2 ^ 53) : F64.gt F64.zero (askThreshold n) = false := by
  obtain ⟨hfin, hsign, -⟩ := F64.ofNat_exact h
  have hthr : F64.signBit (askThreshold n) = false := by
    rw [askThreshold, F64.mul_of_isFinite (by decide) hfin, F64.signBit_round, hsign]
    decide
  have hzero : F64.value F64.zero = 0 := by decide
  have hvalue : ¬ F64.value (askThreshold n) < F64.value F64.zero := by
    rw [hzero, F64.value_eq_signed, hthr, F64.signed, if_neg Bool.false_ne_true]
    omega
  rw [F64.gt, F64.lt, decide_eq_false hvalue, Bool.and_false]

/-- A burst of amplitude +0.0 correlates with its finite carrier to +0.0 (R253). -/
theorem correlation_zero_burst {c : Nat → F64} (n : Nat) (hfin : ∀ m, m < n → F64.isFinite (c m) = true) :
    correlation (fun m => F64.mul F64.zero (c m)) c n = F64.zero := by
  have hterm (m : Nat) (hm : m < n) : F64.abs (F64.mul (F64.mul F64.zero (c m)) (c m)) = F64.zero := by
    obtain ⟨hzfin, hzero⟩ := F64.isFinite_and_units_withSign_zero (F64.signBit F64.zero != F64.signBit (c m))
    have hsample : F64.mul F64.zero (c m) = F64.withSign (F64.signBit F64.zero != F64.signBit (c m)) 0 :=
      F64.mul_of_units_eq_zero (by decide) (hfin m hm) (by decide)
    rw [hsample, F64.mul_of_units_eq_zero hzfin (hfin m hm) hzero, F64.abs_withSign_zero]
  induction n with
  | zero => rfl
  | succ n ih =>
    rw [correlation, ih (fun m hm => hfin m (by omega)) (fun m hm => hterm m (by omega)), hterm n (by omega)]
    decide

/-- What AMOD makes of a bit correlates with the finite carrier to the carrier's energy for a 1 and to +0.0 for a 0. -/
theorem correlation_burst {c : Nat → F64} (n : Nat) (one : Prop) [Decidable one]
    (hfin : ∀ m, m < n → F64.isFinite (c m) = true) :
    correlation (fun m => F64.mul (if one then F64.one else F64.zero) (c m)) c n =
      if one then correlation c c n else F64.zero := by
  split
  · exact correlation_congr n (fun m hm => F64.mul_one_left (hfin m hm)) fun _ _ => rfl
  · exact correlation_zero_burst n hfin

/-- A finite carrier makes no NaN sample, so AMOD writes the samples as computed. -/
theorem exists_exec_amod_samples {s : State} (hspb : spbOk s) (hroom : 8 * s.srcLen * s.spb ≤ 0x100000)
    (hbinary : binarySrc s s.srcLen) (hfin : ∀ n, n < s.spb → F64.isFinite (s.f64At .acar n) = true) :
    ∃ t, exec .amod s = .next t ∧ ∀ m, m < s.srcLen * s.spb → t.f64At .dst m = s.askSample m :=
  (completesWithF64_amod hspb hroom hbinary).exists_exact fun m _ =>
    F64.isNaN_mul_of_isFinite (by split <;> decide) (hfin _ (Nat.mod_lt m hspb.1))

/-- Over the same finite carrier, a segment of AMOD's samples in SRC correlates to the carrier's energy if its bit was 1 and
to +0.0 else. -/
theorem correlation_segment {s u : State} (hspb : u.spb = s.spb)
    (hfin : ∀ n, n < s.spb → F64.isFinite (s.f64At .acar n) = true)
    (hcarrier : ∀ n, n < s.spb → u.f64At .acar n = s.f64At .acar n)
    (hsample : ∀ m, m < s.srcLen * s.spb → u.src64 m = s.askSample m) {j : Nat} (hj : j < s.srcLen) :
    correlation (u.segmentSample j) (u.f64At .acar) s.spb =
      if s.src8 j = 1 then askCorrelate (s.table .acar s.spb) (s.table .acar s.spb) else F64.zero := by
  have hsegment (n : Nat) (hn : n < s.spb) : u.segmentSample j n =
      F64.mul (if s.src8 j = 1 then F64.one else F64.zero) (s.f64At .acar n) := by
    have hin : j * s.spb + n < s.srcLen * s.spb :=
      calc j * s.spb + n < (j + 1) * s.spb := by rw [Nat.succ_mul]; omega
        _ ≤ s.srcLen * s.spb := Nat.mul_le_mul_right _ hj
    rw [State.segmentSample, hspb, hsample _ hin, s.askSample_add j hn]
  rw [correlation_congr s.spb hsegment hcarrier, correlation_burst s.spb _ hfin, State.table, askCorrelate_map_range]

end Sys2Proof.Machine
end

section
/-! 44_ask_modem.md settled: AMOD and ADEM follow their rules, and ADEM undoes AMOD above the threshold. -/

namespace Sys2Proof.Machine

/-- Settles O21: the chain of checks; the bursts of the bits, read by index. -/
theorem amodFollowsItsRule : Obligations.AmodFollowsItsRule := by
  refine ⟨decode_encode_of_wellFormed (i := .amod) rfl, fun s => ⟨?_, completesWithF64_amod⟩⟩
  have hfails {e : CmdError} (h : amodCheck s = some e) : FailsWith .amod s e.kind.code e.info :=
    failsWith_of_failingCheck (by decide) h
  rw [amodCheck_eq] at hfails
  split_ifs at hfails ⊢
  case neg => exact fun k hleast => hfails (nonBinaryError_srcBytes_eq_some _ hleast)
  all_goals exact hfails rfl

/-- Settles O22: the chain of checks; the accumulator is the correlation, read step by step; an integer of 16 bits converts
without rounding. -/
theorem ademFollowsItsRule : Obligations.AdemFollowsItsRule := by
  refine ⟨decode_encode_of_wellFormed (i := .adem) rfl, fun n hn => ?_, fun s => ⟨?_, fun hspb haligned hroom => ?_⟩⟩
  · have hbits : n < 2 ^ 53 := by omega
    exact ⟨(F64.ofNat_exact hbits).1, F64.value_ofNat hbits⟩
  · have hfails {e : CmdError} (h : ademCheck s = some e) : FailsWith .adem s e.kind.code e.info :=
      failsWith_of_failingCheck (by decide) h
    rw [ademCheck_eq] at hfails
    split_ifs at hfails ⊢ with hspb haligned hlarge
    · exact hfails rfl
    · exact fun _ => hfails rfl
    · exact fun hlarge' => absurd hlarge' hlarge
    · exact hfails rfl
  · exact ⟨fun j => correlation (s.segmentSample j) (s.f64At .acar), fun j => ⟨rfl, fun n _ => rfl⟩,
      completesWith_adem hspb haligned hroom⟩

/-- Settles O35: the samples reach ADEM as computed; the correlation of a 1 bit's segment is the carrier's energy, that of a
0 bit's is +0.0, which is not above the threshold. -/
theorem ademUndoesAmodAboveTheThreshold : Obligations.AdemUndoesAmodAboveTheThreshold := by
  intro s u hspb hroom hbinary hfin hspbEq hlength hcarrier
  have hspbU : u.spb = s.spb := by rw [State.spb, hspbEq, State.spb]
  obtain ⟨t, hexec, hwritten⟩ := exists_exec_amod_samples hspb hroom hbinary hfin
  refine ⟨t, hexec, fun hcopy => ?_⟩
  have hsample (m : Nat) (hm : m < s.srcLen * s.spb) : u.src64 m = s.askSample m :=
    (hcopy m (hlength ▸ hm)).trans (hwritten m hm)
  have hcount : u.srcLen / u.spb = s.srcLen := by rw [hlength, hspbU, Nat.mul_div_cancel _ hspb.1]
  obtain ⟨v, hrun, hcsr, hout, -⟩ := completesWith_adem (s := u) (by rwa [spbOk, hspbU])
    (by rw [hlength, hspbU, Nat.mul_mod_left]) (by rwa [hlength, ← Nat.mul_assoc])
  rw [hcount] at hcsr hout
  refine ⟨v, hrun, ?_, fun j hj => ?_⟩
  · rw [hcsr]
    exact (BitVec.ofNat_toNat ..).trans (BitVec.setWidth_eq _)
  · have hquiet : F64.gt F64.zero (askThreshold s.spb) = false := not_gt_zero_askThreshold (by omega)
    beta_reduce at hout
    rw [hout j hj, hspbU, correlation_segment hspbU hfin hcarrier hsample hj]
    by_cases hone : s.src8 j = 1
    · simp only [hone, if_true, true_and]
    · rw [if_neg hone, hquiet, if_neg Bool.false_ne_true, if_neg fun hboth => hone hboth.1]

end Sys2Proof.Machine
end

section
/-! SUPPORT. The QPSK modem: its checks as one chain of conditions each, its signals, samples and decisions by
index, and what its slicer decides on each axis. -/

namespace Sys2Proof.Machine

/-! Checks (45_qpsk_modem.md R271, R272, R280; 60_exceptions.md R332). -/

/-- The configuration checks come before what else a command checks. -/
theorem qpskConfigCheck_orElse (s : State) (rest : Option CmdError) : (qpskConfigCheck s <|> rest) =
    if s.sps = 0 then some (configError .qpskSps)
    else if s.fl % 2 = 1 ∨ s.fl = 0 then some (configError .qpskFrameLen)
    else if s.nt = 0 ∨ 1024 < s.nt then some (configError .qpskNtaps)
    else rest := by
  have htaps : Config.tapMax = 1024 := rfl
  rw [qpskConfigCheck, htaps]
  split_ifs <;> rfl

theorem qmodCheck_eq (s : State) : qmodCheck s =
    if s.sps = 0 then some (configError .qpskSps)
    else if s.fl % 2 = 1 ∨ s.fl = 0 then some (configError .qpskFrameLen)
    else if s.nt = 0 ∨ 1024 < s.nt then some (configError .qpskNtaps)
    else if s.srcLen ≠ s.fl then some ⟨.frameLengthMismatch, s.csr.srcLen⟩
    else if 0x100000 < s.srcLen then some ⟨.capacityExceeded, s.csr.srcLen⟩
    else if 131072 < s.signalLen then some ⟨.capacityExceeded, saturated s.signalLen⟩
    else nonBinaryError .nonBinaryInput (s.srcBytes s.srcLen) := by
  rw [qmodCheck, sat32_eq_saturated]
  exact qpskConfigCheck_orElse s _

/-- MODE 3 has no first sample index, every other MODE that of R281. -/
theorem State.sampleOffset_eq (s : State) :
    s.sampleOffset = if s.csr.smpMode = 3 then none else some (refOffset s) := by
  rw [State.sampleOffset, refOffset]
  have hmodes : ∀ m : BitVec 2, m = 0 ∨ m = 1 ∨ m = 2 ∨ m = 3 := by decide
  obtain hmode | hmode | hmode | hmode := hmodes s.csr.smpMode <;> simp [hmode]

/-- The check of the sampling configuration comes before what else QDEM checks. -/
theorem sampleCheck_orElse (s : State) (rest : Option CmdError) :
    (sampleCheck s <|> rest) = if ¬ sampleOk s then some (configError .qpskSmp) else rest := by
  rw [sampleCheck, s.sampleOffset_eq]
  by_cases hmode : s.csr.smpMode = 3
  · rw [if_pos hmode, if_pos fun hsample => hsample.1 hmode]
    rfl
  · have hlast : ¬ sampleOk s ↔ s.matchedLen ≤ refOffset s + (s.symbols - 1) * s.sps :=
      (not_congr (and_iff_right hmode)).trans Nat.not_lt
    simp only [if_neg hmode, hlast]
    split_ifs <;> rfl

theorem qdemCheck_eq (s : State) : qdemCheck s =
    if s.sps = 0 then some (configError .qpskSps)
    else if s.fl % 2 = 1 ∨ s.fl = 0 then some (configError .qpskFrameLen)
    else if s.nt = 0 ∨ 1024 < s.nt then some (configError .qpskNtaps)
    else if ¬ sampleOk s then some (configError .qpskSmp)
    else if s.srcLen ≠ s.signalLen then some ⟨.signalLengthMismatch, s.csr.srcLen⟩
    else if 131072 < s.signalLen then some ⟨.capacityExceeded, saturated s.signalLen⟩
    else if 0x100000 < s.fl then some ⟨.capacityExceeded, BitVec.ofNat 32 s.fl⟩
    else if s.csr.noiseEn = true ∧ 131072 < s.fl then some ⟨.capacityExceeded, BitVec.ofNat 32 s.fl⟩
    else none := by
  have hfl : s.fl < 2 ^ 32 := s.csr.qpskFrameLen.isLt.trans (by decide)
  rw [qdemCheck, sat32_eq_saturated, sat32_of_lt hfl, qpskConfigCheck_orElse, sampleCheck_orElse]
  rfl

/-! Convolution (R274). -/

/-- The loop over the taps from the `j`-th on continues the sum of the first `j` terms. -/
theorem convAcc_map_range (x tap : Nat → F64) (len n m : Nat) : ∀ j,
    convAcc ((List.range len).map x) n ((List.range m).map fun i => tap (j + i)) j (refConv x tap len n j) =
      refConv x tap len n (j + m) := by
  induction m with
  | zero => intro j; rfl
  | succ m ih =>
    intro j
    have hterm : (if j ≤ n ∧ n - j < ((List.range len).map x).length then
          F64.add (refConv x tap len n j) (F64.mul (((List.range len).map x).getD (n - j) F64.zero) (tap j))
        else refConv x tap len n j) = refConv x tap len n (j + 1) := by
      rw [refConv, List.length_map, List.length_range]
      refine ite_congr rfl (fun hin => ?_) fun _ => rfl
      simp [hin.2]
    have hrest : ((fun i => tap (j + i)) ∘ Nat.succ) = fun i => tap (j + 1 + i) :=
      funext fun i => congrArg tap (Nat.succ_add_eq_add_succ j i).symm
    rw [List.range_succ_eq_map, List.map_cons, List.map_map, hrest, convAcc, Nat.add_zero j, hterm, ih]
    congr 1
    omega

theorem convAt_map_range (x tap : Nat → F64) (len k n : Nat) :
    convAt ((List.range k).map tap) ((List.range len).map x) n = refConv x tap len n k := by
  have hfrom := convAcc_map_range x tap len n k 0
  simp only [Nat.zero_add] at hfrom
  exact hfrom

theorem conv_map_range (x tap : Nat → F64) (len k : Nat) :
    conv ((List.range k).map tap) ((List.range len).map x) =
      (List.range (len + k - 1)).map fun n => refConv x tap len n k := by
  rw [conv, List.length_map, List.length_range, List.length_map, List.length_range]
  exact List.map_congr_left fun n _ => convAt_map_range x tap len k n

/-! Modulation (R270, R272, R273, R275). -/

theorem qpskLevel_cellBit (c : Byte) : qpskLevel (cellBit c) = refLevel c := by
  simp [qpskLevel, refLevel, cellBit]

/-- The first two of `2·(m + 1)` elements given by index, and the others. -/
theorem map_range_two_mul_succ {α : Type} (f : Nat → α) (m : Nat) : (List.range (2 * (m + 1))).map f =
    f 0 :: f 1 :: (List.range (2 * m)).map (fun i => f (i + 2)) := by
  rw [Nat.mul_succ, List.range_succ_eq_map, List.range_succ_eq_map]
  simp [Function.comp_def]

/-- The symbols of bits given by index: bit `2k` decides the imaginary part of symbol `k`, bit `2k + 1` the real part. -/
theorem symbols_map_range (m : Nat) : ∀ f : Nat → Bool,
    symbolsRe ((List.range (2 * m)).map f) = (List.range m).map (fun k => qpskLevel (f (2 * k + 1))) ∧
      symbolsIm ((List.range (2 * m)).map f) = (List.range m).map fun k => qpskLevel (f (2 * k)) := by
  induction m with
  | zero => intro f; exact ⟨rfl, rfl⟩
  | succ m ih =>
    intro f
    obtain ⟨hre, him⟩ := ih fun i => f (i + 2)
    rw [map_range_two_mul_succ, symbolsRe, symbolsIm, hre, him, List.range_succ_eq_map, List.map_cons, List.map_cons,
      List.map_map, List.map_map]
    exact ⟨rfl, rfl⟩

/-- A symbol and the zeros after it, by index. -/
theorem cons_replicate_zero {sps : Nat} (hsps : 1 ≤ sps) (v : F64) :
    v :: List.replicate (sps - 1) F64.zero = (List.range sps).map fun i => if i = 0 then v else F64.zero := by
  obtain ⟨k, rfl⟩ := Nat.exists_eq_add_of_le' hsps
  rw [List.range_succ_eq_map, List.map_cons, List.map_map]
  simp [Function.comp_def]

theorem upsample_map_range {sps : Nat} (hsps : 1 ≤ sps) (g : Nat → F64) (m : Nat) :
    upsample sps ((List.range m).map g) =
      (List.range (m * sps)).map fun i => if i % sps = 0 then g (i / sps) else F64.zero := by
  rw [← flatMap_range_map_range fun k i => if i = 0 then g k else F64.zero]
  simp only [upsample, List.flatMap_map, cons_replicate_zero hsps]

/-- The upsampled symbols of a frame of an even number of bits. -/
theorem upsample_symbols_srcBits {s : State} (hsps : 1 ≤ s.sps) (heven : s.fl % 2 = 0) :
    upsample s.sps (symbolsRe (s.srcBits s.fl)) = (List.range (s.symbols * s.sps)).map (refUpRe s) ∧
      upsample s.sps (symbolsIm (s.srcBits s.fl)) = (List.range (s.symbols * s.sps)).map (refUpIm s) := by
  have hpairs : s.fl = 2 * s.symbols := (Nat.mul_div_cancel' (Nat.dvd_of_mod_eq_zero heven)).symm
  obtain ⟨hre, him⟩ := symbols_map_range s.symbols fun i => cellBit (s.src8 i)
  rw [State.srcBits_eq_map, hpairs, hre, him, upsample_map_range hsps, upsample_map_range hsps]
  simp only [qpskLevel_cellBit]
  exact ⟨rfl, rfl⟩

/-- The signal of the frame in SRC, sample by sample. -/
theorem qpskModulate_eq_map {s : State} (hsps : 1 ≤ s.sps) (heven : s.fl % 2 = 0) :
    qpskModulate (s.table .tap s.nt) (s.table .qcos s.signalLen) (s.table .qsin s.signalLen) s.sps (s.srcBits s.fl) =
      (List.range s.signalLen).map (refQmod s) := by
  have hlength : s.symbols * s.sps + s.nt - 1 = s.signalLen := rfl
  obtain ⟨hre, him⟩ := upsample_symbols_srcBits hsps heven
  simp only [qpskModulate, hre, him, State.table, conv_map_range, hlength, mixUp, List.zipWith_map, List.zipWith_self]
  rfl

/-- A QMOD whose checks pass writes the samples. -/
theorem completesWithF64_qmod {s : State} (hconfig : qpskOk s) (hlength : s.srcLen = s.fl)
    (hroom : s.signalLen ≤ 131072) (hbinary : binarySrc s s.fl) :
    CompletesWithF64 .qmod s s.signalLen (refQmod s) { s.csr with dstLen := BitVec.ofNat 32 s.signalLen } := by
  obtain ⟨hsps, ⟨heven, hpos⟩, hnt, hntMax⟩ := hconfig
  have hfits : s.fl ≤ 0x100000 := by
    have hsymbols : s.fl / 2 ≤ s.fl / 2 * s.sps := Nat.le_mul_of_pos_right _ hsps
    rw [State.signalLen, State.symbols] at hroom
    omega
  have hpass : qmodCheck s = none := by
    rw [qmodCheck_eq, if_neg (by omega), if_neg (by omega), if_neg (by omega), if_neg (not_not.mpr hlength), hlength,
      if_neg (Nat.not_lt.mpr hfits), if_neg (Nat.not_lt.mpr hroom), nonBinaryError_srcBytes_eq_none _ hbinary]
  have hdst : (qmodEffect s).dst = f64Bytes (releasedF64s s ((List.range s.signalLen).map (refQmod s))) := by
    rw [qmodEffect, qpskModulate_eq_map hsps heven]
  exact completesWithF64_of_effect hpass hdst (by simp) fun j hj => by simp

/-! Demodulation (R280 to R283). -/

theorem mixDownRe_map_range (r c : Nat → F64) (n : Nat) :
    mixDownRe ((List.range n).map r) ((List.range n).map c) = (List.range n).map fun i => F64.mul (r i) (c i) := by
  rw [mixDownRe, List.zipWith_map, List.zipWith_self]

theorem mixDownIm_map_range (r sn : Nat → F64) (n : Nat) : mixDownIm ((List.range n).map r) ((List.range n).map sn) =
    (List.range n).map fun i => F64.neg (F64.mul (r i) (sn i)) := by
  rw [mixDownIm, List.zipWith_map, List.zipWith_self, List.map_map]
  rfl

/-- The two decided bits, by index. -/
theorem slice_eq_map_range (qr qi : F64) :
    slice qr qi = (List.range 2).map fun r => if r = 0 then F64.lt qi F64.zero else F64.lt qr F64.zero := rfl

/-- Bit `i` of the demodulated frame. -/
def State.decidedBit (s : State) (i : Nat) : Bool :=
  if i % 2 = 0 then F64.lt (refSampleIm s (i / 2)) F64.zero else F64.lt (refSampleRe s (i / 2)) F64.zero

theorem State.qpskDemodulate_eq_map {s : State} (hmode : s.csr.smpMode ≠ 3) :
    s.qpskDemodulate = (List.range (s.symbols * 2)).map s.decidedBit := by
  have hoff : s.sampleOffset.getD 0 = refOffset s := by rw [s.sampleOffset_eq, if_neg hmode]; rfl
  unfold State.decidedBit
  rw [← flatMap_range_map_range fun k r =>
    if r = 0 then F64.lt (refSampleIm s k) F64.zero else F64.lt (refSampleRe s k) F64.zero]
  simp only [State.qpskDemodulate, State.srcF64s, State.table, mixDownRe_map_range, mixDownIm_map_range,
    State.sampleRe, State.sampleIm, convAt_map_range, hoff, slice_eq_map_range]
  rfl

/-- A QDEM whose checks pass writes the decisions. -/
theorem completesWith_qdem {s : State} (hconfig : qpskOk s) (hsample : sampleOk s) (hlength : s.srcLen = s.signalLen)
    (hroom : s.signalLen ≤ 131072) (hfits : s.fl ≤ 0x100000) (hnoise : s.csr.noiseEn = true → s.fl ≤ 131072) :
    CompletesWith .qdem s s.fl (fun i => bitCell (s.decidedBit i))
      { s.csr with dstLen := BitVec.ofNat 32 s.fl } := by
  obtain ⟨hsps, ⟨heven, hpos⟩, hnt, hntMax⟩ := hconfig
  have hquiet : ¬ (s.csr.noiseEn = true ∧ 131072 < s.fl) := fun ⟨hon, hlarge⟩ => (hnoise hon).not_gt hlarge
  have hpass : qdemCheck s = none := by
    rw [qdemCheck_eq, if_neg (by omega), if_neg (by omega), if_neg (by omega), if_neg (not_not.mpr hsample),
      if_neg (not_not.mpr hlength), if_neg (Nat.not_lt.mpr hroom), if_neg (Nat.not_lt.mpr hfits), if_neg hquiet]
  exact completesWith_of_effect hpass (qdemEffect_writes hpass) fun j hj => by
    simp [commandEffect, qdemEffect, State.qpskDemodulate_eq_map hsample.1, bitsToCells]

/-! The slicer (R270, R283). -/

theorem value_qpskLevel (negative : Bool) :
    F64.value (qpskLevel negative) = if negative then -F64.value F64.ampA else F64.value F64.ampA := by
  rw [qpskLevel, apply_ite F64.value, F64.value_neg]

theorem value_ampA_pos : 0 < F64.value F64.ampA := (F64.value_pos_iff _).mpr (by decide)

theorem lt_zero_eq_decide {x : F64} (h : F64.isFinite x = true) : F64.lt x F64.zero = decide (F64.value x < 0) := by
  have hzero : F64.isNaN F64.zero = false ∧ F64.value F64.zero = 0 := by decide
  simp [F64.lt, F64.isNaN_of_isFinite h, hzero]

/-- The exact squared distance of a sample from a level, on one axis. -/
def levelDist (q : F64) (b : Bool) : Int := (F64.value q - F64.value (qpskLevel b)) ^ 2

/-- The decided bit of one axis: its level is nearest, and of two levels equally far it is the one of the lower bit. -/
theorem levelDist_decided_le {q : F64} (h : F64.isFinite q = true) (c : Bool) :
    levelDist q (F64.lt q F64.zero) ≤ levelDist q c ∧
      (levelDist q (F64.lt q F64.zero) = levelDist q c → (F64.lt q F64.zero).toNat ≤ c.toNat) := by
  have hamp := value_ampA_pos
  rw [lt_zero_eq_decide h]
  simp only [levelDist, value_qpskLevel]
  generalize F64.value q = x, F64.value F64.ampA = a at hamp ⊢
  by_cases hneg : x < 0
  · have hnear : (x + a) ^ 2 < (x - a) ^ 2 := by nlinarith
    cases c <;> simp [hneg, hnear.le, hnear.ne]
  · have hnear : (x - a) ^ 2 ≤ (x + a) ^ 2 := by nlinarith
    cases c <;> simp [hneg, hnear]

end Sys2Proof.Machine
end

section
/-! 45_qpsk_modem.md settled: QMOD and QDEM follow their rules, and the slicer takes the nearest constellation point. -/

namespace Sys2Proof.Machine

/-- Settles O23: the chain of checks; upsampling, convolution and mixing read by index. -/
theorem qmodFollowsItsRule : Obligations.QmodFollowsItsRule := by
  refine ⟨decode_encode_of_wellFormed (i := .qmod) rfl, fun s => ⟨?_, completesWithF64_qmod⟩⟩
  have hfails {e : CmdError} (h : qmodCheck s = some e) : FailsWith .qmod s e.kind.code e.info :=
    failsWith_of_failingCheck (by decide) h
  have hsignal : s.fl / 2 * s.sps + s.nt - 1 = s.signalLen := rfl
  rw [qmodCheck_eq] at hfails
  rw [hsignal]
  split_ifs at hfails ⊢
  case neg hlength _ _ =>
    rw [not_ne_iff.mp hlength] at hfails
    exact fun k hleast => hfails (nonBinaryError_srcBytes_eq_some _ hleast)
  all_goals exact hfails rfl

/-- Settles O24: the chain of checks; the matched filter's outputs and the decisions on them read by index. -/
theorem qdemFollowsItsRule : Obligations.QdemFollowsItsRule := by
  refine ⟨decode_encode_of_wellFormed (i := .qdem) rfl, fun s => ⟨?_, ?_⟩⟩
  · have hfails {e : CmdError} (h : qdemCheck s = some e) : FailsWith .qdem s e.kind.code e.info :=
      failsWith_of_failingCheck (by decide) h
    rw [qdemCheck_eq] at hfails
    split_ifs at hfails ⊢
    any_goals exact hfails rfl
    case pos => exact fun _ _ => hfails rfl
    case neg hquiet => exact fun hon hlarge => absurd ⟨hon, hlarge⟩ hquiet
  · intro hconfig hsample hlength hroom hfits hnoise
    refine (completesWith_qdem hconfig hsample hlength hroom hfits hnoise).congr fun i _ => ?_
    rw [State.decidedBit, apply_ite bitCell]
    rfl

/-- Settles O32: each axis takes its nearest level, so the sum of the two squares is least; two sums are equal only if each
axis is at a tie. -/
theorem slicerTakesTheNearestPoint : Obligations.SlicerTakesTheNearestPoint := by
  intro qr qi b0 b1 c0 c1 hqr hqi hslice
  obtain ⟨rfl, rfl⟩ : F64.lt qi F64.zero = b0 ∧ F64.lt qr F64.zero = b1 := by simpa [slice] using hslice
  obtain ⟨hre, htieRe⟩ := levelDist_decided_le hqr c1
  obtain ⟨him, htieIm⟩ := levelDist_decided_le hqi c0
  refine ⟨add_le_add hre him, fun htie => ?_⟩
  obtain ⟨heqRe, heqIm⟩ := (add_eq_add_iff_eq_and_eq hre him).mp htie
  have hb1 := htieRe heqRe
  have hb0 := htieIm heqIm
  omega

end Sys2Proof.Machine
end

section
/-! SUPPORT. CRC-16 on numbers (46_framer.md R300): the shift, the reversal and one byte as the rule's pseudocode has them. -/

namespace Sys2Proof.Machine

theorem toNat_crcShift (poly reg : BitVec 16) : (crcShift poly reg).toNat = refCrcShift poly.toNat reg.toNat := by
  have hmask (n : Nat) : n &&& 0xFFFF = n % 2 ^ 16 := Nat.and_two_pow_sub_one_eq_mod n 16
  have hbit : refBit reg.toNat 15 = 1 ↔ reg.getLsbD 15 = true := by rw [refBit_toNat, Bool.toNat_eq_one]
  simp only [crcShift, refCrcShift, hmask, hbit, apply_ite BitVec.toNat, BitVec.toNat_xor, BitVec.toNat_shiftLeft,
    Nat.xor_mod_two_pow, Nat.mod_eq_of_lt poly.isLt]

theorem toNat_repeat_crcShift (poly reg : BitVec 16) (n : Nat) :
    (Nat.repeat (crcShift poly) n reg).toNat = Nat.repeat (refCrcShift poly.toNat) n reg.toNat := by
  induction n with
  | zero => rfl
  | succ n ih => rw [Nat.repeat, toNat_crcShift, ih, Nat.repeat]

/-- Reversing one bit more doubles the reversal of the others and appends the new bit below them. -/
theorem refReflect_succ (w v : Nat) : refReflect (w + 1) v = 2 * refReflect w v + refBit v w := by
  have hshift : (List.range w).map (fun i => refBit v i <<< (w + 1 - 1 - i)) =
      (List.range w).map fun i => 2 * (refBit v i <<< (w - 1 - i)) := by
    refine List.map_congr_left fun i hi => ?_
    have hi := List.mem_range.mp hi
    rw [show w + 1 - 1 - i = w - 1 - i + 1 by omega, Nat.shiftLeft_succ]
  rw [refReflect, List.range_succ, List.map_append, List.sum_append, hshift, List.sum_map_mul_left, refReflect]
  simp

theorem refReflect_congr {w v v' : Nat} (h : ∀ i, i < w → refBit v i = refBit v' i) :
    refReflect w v = refReflect w v' := by
  rw [refReflect, refReflect]
  congr 1
  exact List.map_congr_left fun i hi => by rw [h i (List.mem_range.mp hi)]

theorem toNat_reverse : ∀ {w : Nat} (v : BitVec w), v.reverse.toNat = refReflect w v.toNat
  | 0, v => by rw [BitVec.eq_nil v]; rfl
  | w + 1, v => by
    have hlow : refReflect w (v.truncate w).toNat = refReflect w v.toNat :=
      refReflect_congr fun i hi => by simp [refBit_toNat, -BitVec.toNat_setWidth, hi]
    rw [BitVec.reverse, BitVec.toNat_concat, toNat_reverse, hlow, refReflect_succ, refBit_toNat,
      BitVec.msb_eq_getLsbD_last, Nat.mul_comm]
    rfl

/-- What a byte contributes to the register: its bits in input order, in the high half. -/
def crcInput (p : CrcParams) (y : Byte) : BitVec 16 := (if p.refin then y.reverse else y).setWidth 16 <<< 8

theorem toNat_crcInput (p : CrcParams) (y : Byte) :
    (crcInput p y).toNat = (if p.refin then refReflect 8 y.toNat else y.toNat) <<< 8 := by
  have hwide (z : Byte) : (z.setWidth 16 <<< 8).toNat = z.toNat <<< 8 := by
    have hz := z.isLt
    rw [BitVec.toNat_shiftLeft, BitVec.toNat_setWidth, Nat.mod_eq_of_lt (by omega), Nat.shiftLeft_eq,
      Nat.mod_eq_of_lt (by omega), Nat.shiftLeft_eq]
  rw [crcInput, hwide, apply_ite BitVec.toNat, toNat_reverse]

theorem toNat_crcByte (p : CrcParams) (reg : BitVec 16) (y : Byte) : (crcByte p reg y).toNat =
    Nat.repeat (refCrcShift p.poly.toNat) 8
      (reg.toNat ^^^ ((if p.refin then refReflect 8 y.toNat else y.toNat) <<< 8)) := by
  rw [← toNat_crcInput, ← BitVec.toNat_xor, ← toNat_repeat_crcShift]
  rfl

end Sys2Proof.Machine
end

section
/-! SUPPORT. CRC-16: what a flipped bit does to the register (46_framer.md R309). The register is linear over XOR, so the
difference that the bit makes is shifted on its own; as a polynomial over the two-element field it is multiplied by `X`
modulo the generator, and a power of `X` is 0 there only if the generator is itself one. -/

namespace Sys2Proof.Machine

/-! The register is linear over XOR. -/

theorem crcShift_eq_xor (poly reg : BitVec 16) :
    crcShift poly reg = (reg <<< 1) ^^^ if reg.getLsbD 15 then poly else 0 := by
  rw [crcShift]
  split <;> simp

theorem crcShift_xor (poly a b : BitVec 16) : crcShift poly (a ^^^ b) = crcShift poly a ^^^ crcShift poly b := by
  have hpoly : (if (a.getLsbD 15 ^^ b.getLsbD 15) = true then poly else 0) =
      (if a.getLsbD 15 then poly else 0) ^^^ if b.getLsbD 15 then poly else 0 := by
    cases a.getLsbD 15 <;> cases b.getLsbD 15 <;> simp
  rw [crcShift_eq_xor, crcShift_eq_xor, crcShift_eq_xor, BitVec.getLsbD_xor, BitVec.shiftLeft_xor_distrib, hpoly]
  ac_rfl

theorem iterate_crcShift_xor (poly : BitVec 16) (n : Nat) : ∀ a b : BitVec 16,
    (crcShift poly)^[n] (a ^^^ b) = (crcShift poly)^[n] a ^^^ (crcShift poly)^[n] b := by
  induction n with
  | zero => exact fun _ _ => rfl
  | succ n ih => exact fun a b => by simp only [Function.iterate_succ_apply, crcShift_xor, ih]

theorem crcByte_eq_iterate (p : CrcParams) (reg : BitVec 16) (y : Byte) :
    crcByte p reg y = (crcShift p.poly)^[8] (reg ^^^ crcInput p y) := rfl

theorem crcInput_xor (p : CrcParams) (y e : Byte) : crcInput p (y ^^^ e) = crcInput p y ^^^ crcInput p e := by
  have hreverse : (y ^^^ e).reverse = y.reverse ^^^ e.reverse :=
    BitVec.eq_of_getLsbD_eq fun i hi => by simp [BitVec.getLsbD_reverse, BitVec.getMsbD_xor]
  rw [crcInput, crcInput, crcInput, ← BitVec.shiftLeft_xor_distrib]
  cases p.refin <;> simp [hreverse]

theorem crcByte_xor (p : CrcParams) (reg diff : BitVec 16) (y : Byte) :
    crcByte p (reg ^^^ diff) y = crcByte p reg y ^^^ (crcShift p.poly)^[8] diff := by
  rw [crcByte_eq_iterate, crcByte_eq_iterate, ← iterate_crcShift_xor]
  congr 1
  ac_rfl

/-- Bytes read from two registers leave their difference shifted eight times each, whatever the bytes are. -/
theorem foldl_crcByte_xor (p : CrcParams) (ys : List Byte) : ∀ reg diff : BitVec 16,
    ys.foldl (crcByte p) (reg ^^^ diff) = ys.foldl (crcByte p) reg ^^^ (crcShift p.poly)^[8 * ys.length] diff := by
  induction ys with
  | nil => exact fun _ _ => rfl
  | cons y ys ih =>
    intro reg diff
    rw [List.foldl_cons, List.foldl_cons, crcByte_xor, ih, ← Function.iterate_add_apply, List.length_cons, Nat.mul_succ]

theorem crc16_eq_iff (p : CrcParams) (y z : List Byte) :
    crc16 p y = crc16 p z ↔ y.foldl (crcByte p) p.init = z.foldl (crcByte p) p.init := by
  have hinj (a b : BitVec 16) : a.reverse = b.reverse ↔ a = b :=
    ⟨fun h => by rw [← BitVec.reverse_reverse_eq (x := a), h, BitVec.reverse_reverse_eq], congrArg _⟩
  rw [crc16, crc16, BitVec.xor_left_inj]
  cases p.refout
  · rfl
  · exact hinj _ _

/-- Changing bits of one byte leaves the CRC as it was exactly when their contribution has been shifted out. -/
theorem crc16_append_cons_xor_eq_iff (p : CrcParams) (before after : List Byte) (y e : Byte) :
    crc16 p (before ++ (y ^^^ e) :: after) = crc16 p (before ++ y :: after) ↔
      (crcShift p.poly)^[8 * after.length + 8] (crcInput p e) = 0 := by
  have hbyte (reg : BitVec 16) :
      crcByte p reg (y ^^^ e) = crcByte p reg y ^^^ (crcShift p.poly)^[8] (crcInput p e) := by
    rw [← crcByte_xor, crcByte_eq_iterate, crcByte_eq_iterate, crcInput_xor]
    congr 1
    ac_rfl
  rw [crc16_eq_iff, List.foldl_append, List.foldl_append, List.foldl_cons, List.foldl_cons, hbyte, foldl_crcByte_xor,
    Function.iterate_add_apply]
  exact xor_left_eq_self_iff

/-! The register as a polynomial over the two-element field. -/

/-- The polynomial whose coefficients are the bits of a register. -/
noncomputable def regPoly (r : BitVec 16) : Polynomial (ZMod 2) :=
  ∑ i ∈ Finset.range 16, Polynomial.monomial i (if r.getLsbD i then 1 else 0)

theorem coeff_regPoly (r : BitVec 16) (n : Nat) : (regPoly r).coeff n = if r.getLsbD n then 1 else 0 := by
  simp only [regPoly, Polynomial.finsetSum_coeff, Polynomial.coeff_monomial, Finset.sum_ite_eq', Finset.mem_range]
  split
  · rfl
  · next hlarge => rw [BitVec.getLsbD_of_ge r n (Nat.not_lt.mp hlarge), if_neg Bool.false_ne_true]

@[simp] theorem regPoly_zero : regPoly 0 = 0 := by
  ext n
  simp [coeff_regPoly]

theorem regPoly_twoPow {k : Nat} (hk : k < 16) : regPoly (BitVec.twoPow 16 k) = Polynomial.X ^ k := by
  ext n
  simp [coeff_regPoly, Polynomial.coeff_X_pow, hk, eq_comm]

/-- The generator `x^16 + poly(x)` (46_framer.md R309). -/
noncomputable def generator (poly : BitVec 16) : Polynomial (ZMod 2) := Polynomial.X ^ 16 + regPoly poly

theorem regPoly_xor (a b : BitVec 16) : regPoly (a ^^^ b) = regPoly a + regPoly b := by
  ext n
  rw [Polynomial.coeff_add, coeff_regPoly, coeff_regPoly, coeff_regPoly, BitVec.getLsbD_xor]
  cases a.getLsbD n <;> cases b.getLsbD n <;> rfl

/-- Shifting multiplies by `X`, but for the bit that leaves at the top. -/
theorem regPoly_shiftLeft (r : BitVec 16) :
    regPoly (r <<< 1) = Polynomial.X * regPoly r + if r.getLsbD 15 then Polynomial.X ^ 16 else 0 := by
  ext n
  rw [coeff_regPoly, Polynomial.coeff_add, BitVec.getLsbD_shiftLeft, apply_ite (Polynomial.coeff · n),
    Polynomial.coeff_X_pow, Polynomial.coeff_zero]
  cases n with
  | zero => simp
  | succ n =>
    rw [Polynomial.coeff_X_mul, coeff_regPoly, Nat.add_sub_cancel]
    rcases lt_trichotomy n 15 with hlow | rfl | hhigh
    · simp [show n + 1 < 16 by omega, hlow.ne]
    · cases r.getLsbD 15 <;> rfl
    · simp [hhigh.ne', BitVec.getLsbD_of_ge r n hhigh]

/-- A shift multiplies by `X` modulo the generator. -/
theorem regPoly_crcShift (poly r : BitVec 16) :
    regPoly (crcShift poly r) = Polynomial.X * regPoly r + if r.getLsbD 15 then generator poly else 0 := by
  have hleaves := regPoly_shiftLeft r
  rw [crcShift]
  split_ifs at hleaves ⊢
  · rw [regPoly_xor, hleaves, generator, add_assoc]
  · exact hleaves

theorem generator_dvd_iterate_crcShift (poly : BitVec 16) (n : Nat) : ∀ r : BitVec 16,
    generator poly ∣ regPoly ((crcShift poly)^[n] r) ↔ generator poly ∣ Polynomial.X ^ n * regPoly r := by
  induction n with
  | zero => exact fun r => by simp
  | succ n ih =>
    intro r
    have hmultiple : generator poly ∣ Polynomial.X ^ n * if r.getLsbD 15 then generator poly else 0 := by
      split
      · exact dvd_mul_left _ _
      · simp
    rw [Function.iterate_succ_apply, ih, regPoly_crcShift, mul_add, dvd_add_left hmultiple, ← mul_assoc, ← pow_succ]

theorem monic_generator (poly : BitVec 16) : (generator poly).Monic :=
  Polynomial.monic_X_pow_add <| (Polynomial.degree_lt_iff_coeff_zero _ _).mpr fun n hn => by
    rw [coeff_regPoly, BitVec.getLsbD_of_ge poly n hn, if_neg Bool.false_ne_true]

/-- A generator with `poly ≠ 0` is no power of `X`, so it divides none. -/
theorem not_generator_dvd_X_pow {poly : BitVec 16} (hpoly : poly ≠ 0) (n : Nat) :
    ¬ generator poly ∣ Polynomial.X ^ n := by
  intro hdvd
  obtain ⟨m, -, hassoc⟩ := (dvd_prime_pow Polynomial.prime_X n).mp hdvd
  have heq : generator poly = Polynomial.X ^ m :=
    Polynomial.eq_of_monic_of_associated (monic_generator poly) (Polynomial.monic_X_pow m) hassoc
  have hcoeff (i : Nat) :
      (if i = 16 then 1 else 0) + (if poly.getLsbD i then 1 else 0) = (if i = m then 1 else 0 : ZMod 2) := by
    simpa [generator, Polynomial.coeff_X_pow, coeff_regPoly] using congrArg (Polynomial.coeff · i) heq
  have hm : m = 16 := by
    by_contra h
    simpa [Ne.symm h] using hcoeff 16
  subst hm
  refine hpoly (BitVec.eq_of_getLsbD_eq fun i hi => ?_)
  simpa [hi.ne] using hcoeff i

theorem iterate_crcShift_twoPow_ne_zero {poly : BitVec 16} (hpoly : poly ≠ 0) {k : Nat} (hk : k < 16) (n : Nat) :
    (crcShift poly)^[n] (BitVec.twoPow 16 k) ≠ 0 := by
  intro hzero
  have hdvd : generator poly ∣ Polynomial.X ^ n * regPoly (BitVec.twoPow 16 k) := by
    rw [← generator_dvd_iterate_crcShift, hzero, regPoly_zero]
    exact dvd_zero _
  rw [regPoly_twoPow hk, ← pow_add] at hdvd
  exact not_generator_dvd_X_pow hpoly _ hdvd

/-! One flipped bit. -/

/-- A single bit of a byte enters the register as a single bit. -/
theorem crcInput_twoPow (p : CrcParams) {k : Nat} (hk : k < 8) :
    ∃ m, m < 16 ∧ crcInput p (BitVec.twoPow 8 k) = BitVec.twoPow 16 m := by
  rw [crcInput]
  generalize p.refin = r
  revert r k
  decide

/-- A flipped bit changes the CRC, for every CRC_POLY but 0 (R309). -/
theorem crc16_append_cons_flip_ne {p : CrcParams} (hpoly : p.poly ≠ 0) (before after : List Byte) (y : Byte) {k : Nat}
    (hk : k < 8) : crc16 p (before ++ (y ^^^ BitVec.twoPow 8 k) :: after) ≠ crc16 p (before ++ y :: after) := by
  obtain ⟨m, hm, hinput⟩ := crcInput_twoPow p hk
  rw [ne_eq, crc16_append_cons_xor_eq_iff, hinput]
  exact iterate_crcShift_twoPow_ne_zero hpoly hm _

theorem iterate_crcShift_poly_zero (n : Nat) (reg : BitVec 16) : (crcShift 0)^[n] reg = reg <<< n := by
  induction n with
  | zero => simp
  | succ n ih =>
    rw [Function.iterate_succ_apply', ih, crcShift_eq_xor, ← BitVec.shiftLeft_add, ite_self]
    exact BitVec.xor_zero

/-- Under CRC_POLY = 0 a byte is shifted out of the register unchanged (R309). -/
theorem crcByte_of_poly_zero {p : CrcParams} (hpoly : p.poly = 0) (reg : BitVec 16) (y : Byte) :
    crcByte p reg y = reg <<< 8 := by
  have hout : crcInput p y <<< 8 = 0 := by
    rw [crcInput, ← BitVec.shiftLeft_add]
    exact BitVec.shiftLeft_eq_zero le_rfl
  rw [crcByte_eq_iterate, hpoly, iterate_crcShift_poly_zero, BitVec.shiftLeft_xor_distrib, hout]
  exact BitVec.xor_zero

theorem foldl_crcByte_of_poly_zero {p : CrcParams} (hpoly : p.poly = 0) (ys : List Byte) : ∀ reg : BitVec 16,
    ys.foldl (crcByte p) reg = reg <<< (8 * ys.length) := by
  induction ys with
  | nil => exact fun reg => (BitVec.shiftLeft_zero reg).symm
  | cons y ys ih =>
    intro reg
    rw [List.foldl_cons, ih, crcByte_of_poly_zero hpoly, ← BitVec.shiftLeft_add, List.length_cons, Nat.mul_succ,
      Nat.add_comm]

/-- Under CRC_POLY = 0 the CRC depends on the length only. -/
theorem crc16_congr_length {p : CrcParams} (hpoly : p.poly = 0) {y z : List Byte} (hlength : y.length = z.length) :
    crc16 p y = crc16 p z := by
  rw [crc16_eq_iff, foldl_crcByte_of_poly_zero hpoly, foldl_crcByte_of_poly_zero hpoly, hlength]

end Sys2Proof.Machine
end

section
/-! SUPPORT. The framer and the parser: their checks as one chain of conditions each, and the frame by byte index. -/

namespace Sys2Proof.Machine

/-! Sequences given by index. -/

theorem packBits_srcBits_srcLen {s : State} (haligned : s.srcLen % 8 = 0) (hbinary : binarySrc s s.srcLen) :
    packBits (s.srcBits s.srcLen) = (List.range (s.srcLen / 8)).map (refPacked s) := by
  have hlength : s.srcLen = 8 * (s.srcLen / 8) := by omega
  rw [← packBits_srcBits (hlength ▸ hbinary), ← hlength]

theorem refUnpacked_eq_bitCell (f : Nat → Byte) (i : Nat) :
    refUnpacked f i = bitCell ((f (i / 8)).getLsbD (7 - i % 8)) := (bitCell_getLsbD _ _).symm

/-- The cells of the packed bytes are the cells packed. -/
theorem refUnpacked_refPacked {s : State} {n : Nat} (hbinary : binarySrc s (8 * n)) {i : Nat} (hi : i < 8 * n) :
    refUnpacked (refPacked s) i = s.src8 i := by
  have hcells : (List.range (8 * n)).map (refUnpacked (refPacked s)) = (List.range (8 * n)).map s.src8 := by
    rw [← bitsToCells_unpackBytes_map_range, ← packBits_srcBits hbinary, unpackBytes_packBits _ (by simp),
      State.srcBits_eq_map, bitsToCells_map_cellBit hbinary]
  exact List.map_inj_left.mp hcells i (List.mem_range.mpr hi)

/-- Bytes whose cells stand in SRC are the bytes packed from SRC. -/
theorem refPacked_of_cells {u : State} {g : Nat → Byte} {n : Nat}
    (hcells : ∀ i, i < 8 * n → u.src8 i = refUnpacked g i) {j : Nat} (hj : j < n) : refPacked u j = g j := by
  have hbinary : binarySrc u (8 * n) := fun i hi => by
    rw [binaryCell, hcells i hi, refUnpacked_eq_bitCell]
    exact bitCell_eq_zero_or_one _
  have hbytes : (List.range n).map (refPacked u) = (List.range n).map g := by
    have hbits : u.srcBits (8 * n) = unpackBytes ((List.range n).map g) := by
      rw [← cellsToBits_bitsToCells (unpackBytes _), bitsToCells_unpackBytes_map_range, State.srcBits, State.srcBytes,
        List.map_congr_left fun i hi => hcells i (List.mem_range.mp hi)]
    rw [← packBits_srcBits hbinary, hbits, packBits_unpackBytes]
  exact List.map_inj_left.mp hbytes j (List.mem_range.mpr hj)

theorem refCrcOf_congr {s u : State} (hparams : u.csr.crcParams = s.csr.crcParams) {f g : Nat → Byte} {n : Nat}
    (h : ∀ j, j < n → g j = f j) : refCrcOf u g n = refCrcOf s f n := by
  rw [refCrcOf, refCrcOf, hparams, List.map_congr_left fun j hj => h j (List.mem_range.mp hj)]

theorem refField_eq_iff (f g : Nat → Byte) (j : Nat) :
    refField f j = refField g j ↔ f j = g j ∧ f (j + 1) = g (j + 1) := by
  refine ⟨fun h => ⟨?_, ?_⟩, fun ⟨hhigh, hlow⟩ => by rw [refField, refField, hhigh, hlow]⟩
  · simpa only [refField, BitVec.extractLsb'_append_eq_left] using congrArg (BitVec.extractLsb' 8 8) h
  · simpa only [refField, BitVec.extractLsb'_append_eq_right] using congrArg (BitVec.extractLsb' 0 8) h

theorem beField_map_range (f : Nat → Byte) {n j : Nat} (hj : j + 1 < n) :
    beField ((List.range n).map f) j = refField f j := by
  have hj' : j < n := by omega
  simp [beField, refField, hj, hj']

/-! Checks (46_framer.md R303). -/

theorem receivedCrc_map_range (p : CrcParams) (f : Nat → Byte) (n : Nat) :
    receivedCrc p ((List.range n).map f) = crc16 p ((List.range (n - 2)).map f) := by
  simp [receivedCrc, ← List.map_take, List.take_range]

/-- The content checks on a frame given by index. -/
theorem frameCheck_map_range (p : CrcParams) (hdr : BitVec 16) (f : Nat → Byte) (n : Nat) :
    frameCheck p hdr ((List.range n).map f) =
      if n < 6 then some ⟨.incompleteFrame, BitVec.ofNat 32 (0x80000000 + n)⟩
      else if refField f 0 ≠ hdr then some ⟨.headerMismatch, (refField f 0).setWidth 32⟩
      else if n - 6 < (refField f 2).toNat then some ⟨.incompleteFrame, (refField f 2).setWidth 32⟩
      else if crc16 p ((List.range (n - 2)).map f) ≠ refField f (n - 2) then
        some ⟨.crcMismatch, BitVec.ofNat 32
          ((refField f (n - 2)).toNat * 0x10000 + (crc16 p ((List.range (n - 2)).map f)).toNat)⟩
      else none := by
  have hinfo (hi lo : BitVec 16) : (hi ++ lo : BitVec (16 + 16)) = BitVec.ofNat 32 (hi.toNat * 0x10000 + lo.toNat) := by
    refine BitVec.eq_of_toNat_eq ?_
    have hhi := hi.isLt
    have hlo := lo.isLt
    rw [BitVec.toNat_append, ← Nat.shiftLeft_add_eq_or_of_lt hlo, Nat.shiftLeft_eq, BitVec.toNat_ofNat,
      Nat.mod_eq_of_lt (by omega)]
  rw [frameCheck, List.length_map, List.length_range, receivedCrc_map_range]
  by_cases hshort : n < 6
  · rw [if_pos hshort, if_pos hshort]
    interval_cases n <;> rfl
  · rw [if_neg hshort, if_neg hshort, beField_map_range f (by omega), beField_map_range f (by omega),
      beField_map_range f (by omega), hinfo]

/-- The checks of FPARSE on binary cells. -/
theorem fparseCheck_of_binarySrc {s : State} (haligned : s.srcLen % 8 = 0) (hfits : s.srcLen ≤ 0x100000)
    (hbinary : binarySrc s s.srcLen) : fparseCheck s =
      frameCheck s.csr.crcParams s.csr.frHeader ((List.range (s.srcLen / 8)).map (refPacked s)) := by
  have hroom : ¬ Config.bufBytes < s.srcLen := Nat.not_lt.mpr hfits
  rw [fparseCheck, if_neg (not_not.mpr haligned), if_neg hroom, nonBinaryError_srcBytes_eq_none _ hbinary,
    packBits_srcBits_srcLen haligned hbinary]
  rfl

/-! The frame FBUILD makes (R302, R305). -/

theorem beBytes_ofNat (n : Nat) : beBytes (BitVec.ofNat 16 n) = [BitVec.ofNat 8 (n / 256), BitVec.ofNat 8 (n % 256)] := by
  have hhigh : (BitVec.ofNat 16 n).extractLsb' 8 8 = BitVec.ofNat 8 (n / 256) := by
    refine BitVec.eq_of_toNat_eq ?_
    rw [BitVec.extractLsb'_toNat, BitVec.toNat_ofNat, BitVec.toNat_ofNat, Nat.shiftRight_eq_div_pow]
    omega
  have hlow : (BitVec.ofNat 16 n).extractLsb' 0 8 = BitVec.ofNat 8 (n % 256) := by
    refine BitVec.eq_of_toNat_eq ?_
    rw [BitVec.extractLsb'_toNat, BitVec.toNat_ofNat, BitVec.toNat_ofNat, Nat.shiftRight_zero]
    omega
  rw [beBytes, hhigh, hlow]

theorem refBody_payload (s : State) (j : Nat) : refBody s (4 + j) = refPacked s j := by
  rw [refBody, if_neg (by omega), if_neg (by omega), if_neg (by omega), if_neg (by omega), Nat.add_sub_cancel_left]

theorem frameBody_map_range (s : State) : frameBody s.csr.frHeader ((List.range (s.srcLen / 8)).map (refPacked s)) =
    (List.range (4 + s.srcLen / 8)).map (refBody s) := by
  rw [List.range_add, List.map_append, List.map_map, frameBody, List.length_map, List.length_range, beBytes_ofNat]
  congr 1
  exact List.map_congr_left fun j _ => (refBody_payload s j).symm

theorem buildFrame_map_range (s : State) :
    buildFrame s.csr.crcParams s.csr.frHeader ((List.range (s.srcLen / 8)).map (refPacked s)) =
      (List.range (s.srcLen / 8 + 6)).map (refFrame s) := by
  rw [show s.srcLen / 8 + 6 = (4 + s.srcLen / 8) + 2 by omega, List.range_add, List.map_append, buildFrame,
    frameBody_map_range]
  congr 1
  · refine List.map_congr_left fun j hj => ?_
    have hj := List.mem_range.mp hj
    simp [refFrame, hj]
  · simp [refFrame, refCrcOf, beBytes, List.range_succ]

/-! Results (R301 to R303). -/

theorem completesWith_fbuild {s : State} (haligned : s.srcLen % 8 = 0) (hfits : s.srcLen / 8 ≤ 65535)
    (hbinary : binarySrc s s.srcLen) :
    CompletesWith .fbuild s (s.srcLen + 48) (refUnpacked (refFrame s))
      { s.csr with
        crcResult := refCrcOf s (refBody s) (4 + s.srcLen / 8)
        dstLen := BitVec.ofNat 32 (s.srcLen + 48) } := by
  have hpass : fbuildCheck s = none :=
    ((if_neg (not_not.mpr haligned)).trans (if_neg (Nat.not_lt.mpr hfits))).trans
      (nonBinaryError_srcBytes_eq_none _ hbinary)
  have hpayload := packBits_srcBits_srcLen haligned hbinary
  have hcells : (fbuildEffect s).dst = (List.range (s.srcLen + 48)).map (refUnpacked (refFrame s)) := by
    rw [fbuildEffect, hpayload, buildFrame_map_range, bitsToCells_unpackBytes_map_range,
      show 8 * (s.srcLen / 8 + 6) = s.srcLen + 48 by omega]
  have hcsr : (fbuildEffect s).csr = { s.csr with
      crcResult := refCrcOf s (refBody s) (4 + s.srcLen / 8), dstLen := BitVec.ofNat 32 (s.srcLen + 48) } := by
    rw [fbuildEffect, hpayload, frameBody_map_range, refCrcOf]
  rw [← hcsr]
  exact completesWith_of_effect hpass (fbuildEffect_writes hpass) fun j hj => by simp [commandEffect, hcells]

/-- The errors of FPARSE over binary cells, in order. -/
theorem failsWith_fparse {s : State} (haligned : s.srcLen % 8 = 0) (hfits : s.srcLen ≤ 0x100000)
    (hbinary : binarySrc s s.srcLen) :
    if s.srcLen / 8 < 6 then FailsWith .fparse s 0x05 (BitVec.ofNat 32 (0x80000000 + s.srcLen / 8))
    else if refField (refPacked s) 0 ≠ s.csr.frHeader then
      FailsWith .fparse s 0x04 ((refField (refPacked s) 0).setWidth 32)
    else if s.srcLen / 8 - 6 < (refField (refPacked s) 2).toNat then
      FailsWith .fparse s 0x05 ((refField (refPacked s) 2).setWidth 32)
    else refCrcOf s (refPacked s) (s.srcLen / 8 - 2) ≠ refField (refPacked s) (s.srcLen / 8 - 2) →
      FailsWith .fparse s 0x06 (BitVec.ofNat 32 ((refField (refPacked s) (s.srcLen / 8 - 2)).toNat * 0x10000 +
        (refCrcOf s (refPacked s) (s.srcLen / 8 - 2)).toNat)) := by
  have hfails {e : CmdError} (h : fparseCheck s = some e) : FailsWith .fparse s e.kind.code e.info :=
    failsWith_of_failingCheck (by decide) h
  rw [fparseCheck_of_binarySrc haligned hfits hbinary, frameCheck_map_range] at hfails
  split_ifs at hfails ⊢ with _ _ _ hcrc
  · exact hfails rfl
  · exact hfails rfl
  · exact hfails rfl
  · exact fun _ => hfails rfl
  · exact fun hdiffers => absurd hdiffers hcrc

theorem completesWith_fparse {s : State} (haligned : s.srcLen % 8 = 0) (hfits : s.srcLen ≤ 0x100000)
    (hbinary : binarySrc s s.srcLen) (hlong : 6 ≤ s.srcLen / 8) (hheader : refField (refPacked s) 0 = s.csr.frHeader)
    (hdeclared : (refField (refPacked s) 2).toNat ≤ s.srcLen / 8 - 6)
    (hcrc : refCrcOf s (refPacked s) (s.srcLen / 8 - 2) = refField (refPacked s) (s.srcLen / 8 - 2)) :
    CompletesWith .fparse s (8 * (refField (refPacked s) 2).toNat) (fun i => s.src8 (32 + i))
      { s.csr with
        crcResult := refCrcOf s (refPacked s) (s.srcLen / 8 - 2)
        dstLen := BitVec.ofNat 32 (8 * (refField (refPacked s) 2).toNat) } := by
  have hlength : s.srcLen = 8 * (s.srcLen / 8) := by omega
  have hfield : beField ((List.range (s.srcLen / 8)).map (refPacked s)) 2 = refField (refPacked s) 2 :=
    beField_map_range _ (by omega)
  have hpacked := packBits_srcBits_srcLen haligned hbinary
  have hpass : fparseCheck s = none := by
    rw [fparseCheck_of_binarySrc haligned hfits hbinary, frameCheck_map_range, if_neg (Nat.not_lt.mpr hlong),
      if_neg (not_not.mpr hheader), if_neg (Nat.not_lt.mpr hdeclared), ← refCrcOf, if_neg (not_not.mpr hcrc)]
  have hcsr : (fparseEffect s).csr = { s.csr with
      crcResult := refCrcOf s (refPacked s) (s.srcLen / 8 - 2)
      dstLen := BitVec.ofNat 32 (8 * (refField (refPacked s) 2).toNat) } := by
    rw [fparseEffect, hpacked, hfield, receivedCrc_map_range, refCrcOf]
  have hpayload : framePayload ((List.range (s.srcLen / 8)).map (refPacked s)) =
      (List.range (refField (refPacked s) 2).toNat).map fun j => refPacked s (4 + j) := by
    rw [framePayload, hfield]
    refine List.ext_getElem (by simp; omega) fun j _ _ => by simp
  have hcells (i : Nat) (hi : i < 8 * (refField (refPacked s) 2).toNat) :
      refUnpacked (fun j => refPacked s (4 + j)) i = s.src8 (32 + i) := by
    rw [← refUnpacked_refPacked (hlength ▸ hbinary) (show 32 + i < 8 * (s.srcLen / 8) by omega), refUnpacked,
      refUnpacked, show (32 + i) / 8 = 4 + i / 8 by omega, show (32 + i) % 8 = i % 8 by omega]
  have hwrites := fparseEffect_writes hpass
  rw [hpacked, hfield] at hwrites
  rw [← hcsr]
  refine (completesWith_of_effect (i := .fparse) hpass hwrites fun i hi => ?_).congr hcells
  simp [commandEffect, fparseEffect, hpacked, hpayload, bitsToCells_unpackBytes_map_range]

end Sys2Proof.Machine
end

section
/-! SUPPORT. A frame on the receiving side: the fields of a built frame, and what FPARSE answers over a received one. -/

namespace Sys2Proof.Machine

/-! The fields of the frame FBUILD makes (46_framer.md R305). -/

theorem refFrame_of_lt {s : State} {j : Nat} (hj : j < 4 + s.srcLen / 8) : refFrame s j = refBody s j := if_pos hj

theorem refField_of_halves {f : Nat → Byte} {j : Nat} {v : BitVec 16} (hhigh : f j = v.extractLsb' 8 8)
    (hlow : f (j + 1) = v.extractLsb' 0 8) : refField f j = v := by
  rw [refField, hhigh, hlow]
  exact BitVec.extractLsb'_append_extractLsb' (len := 8) (w := 8)

theorem refField_refFrame_header (s : State) : refField (refFrame s) 0 = s.csr.frHeader :=
  refField_of_halves (refFrame_of_lt (by omega)) (refFrame_of_lt (by omega))

theorem refField_refFrame_length (s : State) : refField (refFrame s) 2 = BitVec.ofNat 16 (s.srcLen / 8) := by
  have hbytes := beBytes_ofNat (s.srcLen / 8)
  simp only [beBytes, List.cons.injEq, and_true] at hbytes
  obtain ⟨hhigh, hlow⟩ := hbytes
  exact refField_of_halves ((refFrame_of_lt (by omega)).trans hhigh.symm) ((refFrame_of_lt (by omega)).trans hlow.symm)

theorem toNat_refField_refFrame_length {s : State} (hfits : s.srcLen / 8 ≤ 65535) :
    (refField (refFrame s) 2).toNat = s.srcLen / 8 := by
  rw [refField_refFrame_length, BitVec.toNat_ofNat, Nat.mod_eq_of_lt (by omega)]

/-- The CRC field holds the CRC of everything before it. -/
theorem refField_refFrame_crc (s : State) :
    refField (refFrame s) (4 + s.srcLen / 8) = refCrcOf s (refFrame s) (4 + s.srcLen / 8) := by
  rw [refCrcOf_congr rfl fun j hj => refFrame_of_lt hj]
  exact refField_of_halves (by simp [refFrame]) (by simp [refFrame])

theorem refUnpacked_refFrame_payload {s : State} (haligned : s.srcLen % 8 = 0) (hbinary : binarySrc s s.srcLen) {i : Nat}
    (hi : i < s.srcLen) : refUnpacked (refFrame s) (32 + i) = s.src8 i := by
  have hlength : s.srcLen = 8 * (s.srcLen / 8) := by omega
  have hbyte : refFrame s (4 + i / 8) = refPacked s (i / 8) :=
    (refFrame_of_lt (by omega)).trans (refBody_payload s (i / 8))
  rw [← refUnpacked_refPacked (hlength ▸ hbinary) (hlength ▸ hi), refUnpacked, refUnpacked,
    show (32 + i) / 8 = 4 + i / 8 by omega, show (32 + i) % 8 = i % 8 by omega, hbyte]

/-! A received frame (R303). -/

/-- SRC holds the cells of the frame `g` of `payload` bytes and six more. -/
structure Receives (u : State) (g : Nat → Byte) (payload : Nat) : Prop where
  length : u.srcLen = 8 * (payload + 6)
  fits : payload ≤ 65535
  cells : ∀ i, i < 8 * (payload + 6) → u.src8 i = refUnpacked g i

section
variable {u : State} {g : Nat → Byte} {n : Nat}

theorem Receives.binarySrc (h : Receives u g n) : binarySrc u u.srcLen := fun i hi => by
  rw [binaryCell, h.cells i (h.length ▸ hi), refUnpacked_eq_bitCell]
  exact bitCell_eq_zero_or_one _

theorem Receives.refField_eq (h : Receives u g n) {j : Nat} (hj : j < n + 5) :
    refField (refPacked u) j = refField g j :=
  (refField_eq_iff ..).mpr ⟨refPacked_of_cells h.cells (by omega), refPacked_of_cells h.cells (by omega)⟩

theorem Receives.refCrcOf_eq (h : Receives u g n) : refCrcOf u (refPacked u) (4 + n) = refCrcOf u g (4 + n) :=
  refCrcOf_congr rfl fun j hj => refPacked_of_cells h.cells (by omega)

/-- What FPARSE reports of a received frame. -/
theorem Receives.failsWith (h : Receives u g n) :
    if refField g 0 ≠ u.csr.frHeader then ∃ info, FailsWith .fparse u 0x04 info
    else if n < (refField g 2).toNat then ∃ info, FailsWith .fparse u 0x05 info
    else refCrcOf u g (4 + n) ≠ refField g (4 + n) → ∃ info, FailsWith .fparse u 0x06 info := by
  have hlength := h.length
  have hfits := h.fits
  have hbytes : u.srcLen / 8 = 4 + n + 2 := by omega
  have hrule := failsWith_fparse (s := u) (by omega) (by omega) h.binarySrc
  rw [hbytes, if_neg (by omega), Nat.add_sub_cancel, show 4 + n + 2 - 6 = n by omega, h.refField_eq (by omega),
    h.refField_eq (by omega), h.refField_eq (by omega), h.refCrcOf_eq] at hrule
  split_ifs at hrule ⊢
  · exact ⟨_, hrule⟩
  · exact ⟨_, hrule⟩
  · exact fun hdiffers => ⟨_, hrule hdiffers⟩

/-- What FPARSE answers over a received frame that passes its checks. -/
theorem Receives.completesWith (h : Receives u g n) (hheader : refField g 0 = u.csr.frHeader)
    (hdeclared : (refField g 2).toNat ≤ n) (hcrc : refCrcOf u g (4 + n) = refField g (4 + n)) :
    CompletesWith .fparse u (8 * (refField g 2).toNat) (fun i => refUnpacked g (32 + i))
      { u.csr with
        crcResult := refCrcOf u g (4 + n)
        dstLen := BitVec.ofNat 32 (8 * (refField g 2).toNat) } := by
  have hlength := h.length
  have hfits := h.fits
  have hbytes : u.srcLen / 8 = 4 + n + 2 := by omega
  have hrule := completesWith_fparse (s := u) (by omega) (by omega) h.binarySrc
  rw [hbytes, Nat.add_sub_cancel, show 4 + n + 2 - 6 = n by omega, h.refField_eq (by omega),
    h.refField_eq (by omega), h.refField_eq (by omega), h.refCrcOf_eq] at hrule
  exact (hrule (by omega) hheader hdeclared hcrc).congr fun i hi => h.cells _ (by omega)

end

/-! One flipped bit (R309). -/

/-- The byte sequence with its bit cell `b` flipped. -/
def flipBit (f : Nat → Byte) (b j : Nat) : Byte := if j = b / 8 then f j ^^^ BitVec.twoPow 8 (7 - b % 8) else f j

theorem flipBit_of_ne {f : Nat → Byte} {b j : Nat} (hj : j ≠ b / 8) : flipBit f b j = f j := if_neg hj

theorem flipBit_ne (f : Nat → Byte) (b : Nat) : flipBit f b (b / 8) ≠ f (b / 8) := by
  have hbit : BitVec.twoPow 8 (7 - b % 8) ≠ 0 := by
    generalize hk : 7 - b % 8 = k
    have hk' : k < 8 := by omega
    clear hk
    revert k
    decide
  rw [flipBit, if_pos rfl]
  exact fun h => hbit (xor_left_eq_self_iff.mp h)

theorem refUnpacked_flipBit (f : Nat → Byte) (b i : Nat) :
    refUnpacked (flipBit f b) i = if i = b then refUnpacked f i ^^^ 1 else refUnpacked f i := by
  have hcell (x : Bool) : bitCell (!x) = bitCell x ^^^ 1 := by cases x <;> rfl
  rw [refUnpacked_eq_bitCell, refUnpacked_eq_bitCell]
  by_cases hbyte : i / 8 = b / 8
  · have hbit : i = b ↔ 7 - b % 8 = 7 - i % 8 := by omega
    rw [flipBit, if_pos hbyte, BitVec.getLsbD_xor, BitVec.getLsbD_twoPow]
    by_cases h : i = b
    · have hin : 7 - b % 8 < 8 := by omega
      rw [if_pos h, decide_eq_true (hbit.mp h), decide_eq_true hin, Bool.and_true, Bool.xor_true, hcell]
    · rw [if_neg h, decide_eq_false fun h' => h (hbit.mpr h'), Bool.and_false, Bool.xor_false]
  · rw [flipBit_of_ne hbyte, if_neg fun h => hbyte (congrArg (· / 8) h)]

theorem refField_flipBit_eq (f : Nat → Byte) {b j : Nat} (hhigh : b / 8 ≠ j) (hlow : b / 8 ≠ j + 1) :
    refField (flipBit f b) j = refField f j :=
  (refField_eq_iff ..).mpr ⟨flipBit_of_ne hhigh.symm, flipBit_of_ne hlow.symm⟩

theorem refField_flipBit_ne (f : Nat → Byte) {b j : Nat} (h : b / 8 = j ∨ b / 8 = j + 1) :
    refField (flipBit f b) j ≠ refField f j := fun heq => by
  obtain ⟨hhigh, hlow⟩ := (refField_eq_iff ..).mp heq
  rcases h with rfl | h
  · exact flipBit_ne f b hhigh
  · rw [← h] at hlow
    exact flipBit_ne f b hlow

/-- Elements given by index, parted at index `j`. -/
theorem map_range_split {α : Type} (f : Nat → α) (j m : Nat) : (List.range (j + m + 1)).map f =
    (List.range j).map f ++ f j :: (List.range m).map fun i => f (j + (i + 1)) := by
  rw [Nat.add_assoc, List.range_add, List.map_append, List.map_map, List.range_succ_eq_map, List.map_cons, List.map_map]
  rfl

theorem refCrcOf_flipBit_ne {s : State} (hpoly : s.csr.crcPoly ≠ 0) (f : Nat → Byte) {b n : Nat} (hb : b / 8 < n) :
    refCrcOf s (flipBit f b) n ≠ refCrcOf s f n := by
  obtain ⟨m, rfl⟩ := Nat.exists_eq_add_of_lt hb
  have hbefore : (List.range (b / 8)).map (flipBit f b) = (List.range (b / 8)).map f :=
    List.map_congr_left fun j hj => flipBit_of_ne (List.mem_range.mp hj).ne
  have hafter (i : Nat) : flipBit f b (b / 8 + (i + 1)) = f (b / 8 + (i + 1)) := flipBit_of_ne (by omega)
  have hflipped : flipBit f b (b / 8) = f (b / 8) ^^^ BitVec.twoPow 8 (7 - b % 8) := if_pos rfl
  rw [refCrcOf, refCrcOf, map_range_split, map_range_split, hbefore, hflipped]
  simp only [hafter]
  exact crc16_append_cons_flip_ne hpoly _ _ _ (by omega)

theorem refCrcOf_of_poly_zero {s : State} (hpoly : s.csr.crcPoly = 0) (f g : Nat → Byte) (n : Nat) :
    refCrcOf s f n = refCrcOf s g n :=
  crc16_congr_length hpoly (by simp)

theorem FailsWith.exists_report {i : Instr} {s : State} {code : BitVec 8} (h : ∃ info, FailsWith i s code info) :
    ∃ v, exec i s = .next v ∧ v.csr.err = true ∧ v.csr.errcode = code := by
  obtain ⟨info, v, hexec, hcsr, -⟩ := h
  exact ⟨v, hexec, by rw [hcsr], by rw [hcsr]⟩

section
variable {s u : State} {b : Nat}

/-- A flip in the header. -/
theorem Receives.report_header (h : Receives u (flipBit (refFrame s) b) (s.srcLen / 8))
    (hheader : u.csr.frHeader = s.csr.frHeader) (hb : b < 16) :
    ∃ v, exec .fparse u = .next v ∧ v.csr.err = true ∧ v.csr.errcode = 0x04 := by
  have hdiffers : refField (flipBit (refFrame s) b) 0 ≠ u.csr.frHeader := by
    rw [hheader, ← refField_refFrame_header]
    exact refField_flipBit_ne _ (by omega)
  have hrule := h.failsWith
  rw [if_pos hdiffers] at hrule
  exact FailsWith.exists_report hrule

/-- A flip after the header leaves the header as it is. -/
theorem refField_flipBit_header (hheader : u.csr.frHeader = s.csr.frHeader) (hb : ¬ b < 16) :
    refField (flipBit (refFrame s) b) 0 = u.csr.frHeader := by
  rw [hheader, refField_flipBit_eq _ (by omega) (by omega), refField_refFrame_header]

/-- A flip that raises the declared length. -/
theorem Receives.report_raised (h : Receives u (flipBit (refFrame s) b) (s.srcLen / 8))
    (hheader : u.csr.frHeader = s.csr.frHeader) (hb : ¬ b < 16)
    (hraised : s.srcLen / 8 < (refField (flipBit (refFrame s) b) 2).toNat) :
    ∃ v, exec .fparse u = .next v ∧ v.csr.err = true ∧ v.csr.errcode = 0x05 := by
  have hrule := h.failsWith
  rw [if_neg (not_not.mpr (refField_flipBit_header hheader hb)), if_pos hraised] at hrule
  exact FailsWith.exists_report hrule

/-- A flip after the header that makes the CRC and its field differ. -/
theorem Receives.report_crc (h : Receives u (flipBit (refFrame s) b) (s.srcLen / 8))
    (hheader : u.csr.frHeader = s.csr.frHeader) (hb : ¬ b < 16)
    (hdeclared : ¬ s.srcLen / 8 < (refField (flipBit (refFrame s) b) 2).toNat)
    (hdiffers : refCrcOf u (flipBit (refFrame s) b) (4 + s.srcLen / 8) ≠
      refField (flipBit (refFrame s) b) (4 + s.srcLen / 8)) :
    ∃ v, exec .fparse u = .next v ∧ v.csr.err = true ∧ v.csr.errcode = 0x06 := by
  have hrule := h.failsWith
  rw [if_neg (not_not.mpr (refField_flipBit_header hheader hb)), if_neg hdeclared] at hrule
  exact FailsWith.exists_report (hrule hdiffers)

/-- A flip before the CRC field leaves there the CRC of the frame as built. -/
theorem refField_flipBit_crc_of_body (hparams : u.csr.crcParams = s.csr.crcParams) (hbody : b / 8 < 4 + s.srcLen / 8) :
    refField (flipBit (refFrame s) b) (4 + s.srcLen / 8) = refCrcOf u (refFrame s) (4 + s.srcLen / 8) := by
  rw [refField_flipBit_eq _ (by omega) (by omega), refField_refFrame_crc, refCrcOf_congr hparams fun _ _ => rfl]

/-- A flip in the CRC field changes that field, and nothing that the CRC covers. -/
theorem refCrcOf_flipBit_ne_field (hparams : u.csr.crcParams = s.csr.crcParams)
    (hfield : b / 8 = 4 + s.srcLen / 8 ∨ b / 8 = 4 + s.srcLen / 8 + 1) :
    refCrcOf u (flipBit (refFrame s) b) (4 + s.srcLen / 8) ≠
      refField (flipBit (refFrame s) b) (4 + s.srcLen / 8) := by
  rw [refCrcOf_congr hparams fun j hj => flipBit_of_ne (f := refFrame s) (by omega), ← refField_refFrame_crc]
  exact (refField_flipBit_ne _ hfield).symm

end

end Sys2Proof.Machine
end

section
/-! 46_framer.md settled: the three commands follow their rules, the CRC is the rule's pseudocode, FPARSE undoes FBUILD and
reports a flipped bit. -/

namespace Sys2Proof.Machine

/-- Settles O18: CRC has the checks of PACK, and the CRC is over the packed bytes. -/
theorem crcFollowsItsRule : Obligations.CrcFollowsItsRule := by
  refine ⟨decode_encode_of_wellFormed (i := .crc) rfl, fun s => ⟨?_, fun haligned hfits hbinary => ?_⟩⟩
  · have hfails {e : CmdError} (h : crcCheck s = some e) : FailsWith .crc s e.kind.code e.info :=
      failsWith_of_failingCheck (by decide) h
    split_ifs with hunaligned hlarge
    · exact hfails (if_pos hunaligned)
    · exact hfails ((if_neg hunaligned).trans (if_pos hlarge))
    · intro k hleast
      exact hfails (((if_neg hunaligned).trans (if_neg hlarge)).trans (nonBinaryError_srcBytes_eq_some _ hleast))
  · have hpass : crcCheck s = none :=
      ((if_neg (not_not.mpr haligned)).trans (if_neg (Nat.not_lt.mpr hfits))).trans
        (nonBinaryError_srcBytes_eq_none _ hbinary)
    have hcsr : (crcEffect s).csr =
        { s.csr with crcResult := refCrcOf s (refPacked s) (s.srcLen / 8), dstLen := 0 } := by
      rw [crcEffect, packBits_srcBits_srcLen haligned hbinary, refCrcOf]
    rw [← hcsr]
    exact completesWith_of_effect hpass ⟨rfl, rfl, by decide⟩ fun j hj => absurd hj (Nat.not_lt_zero j)

/-- Settles O19: the chain of checks; the cells of the built frame, byte by byte. -/
theorem fbuildFollowsItsRule : Obligations.FbuildFollowsItsRule := by
  refine ⟨decode_encode_of_wellFormed (i := .fbuild) rfl, fun s => ⟨?_, completesWith_fbuild⟩⟩
  have hfails {e : CmdError} (h : fbuildCheck s = some e) : FailsWith .fbuild s e.kind.code e.info :=
    failsWith_of_failingCheck (by decide) h
  split_ifs with hunaligned hlong
  · exact hfails (if_pos hunaligned)
  · have hcount : s.srcLen < 2 ^ 32 := s.csr.srcLen.isLt
    rw [← sat32_of_lt (by omega)]
    exact hfails ((if_neg hunaligned).trans (if_pos hlong))
  · intro k hleast
    exact hfails (((if_neg hunaligned).trans (if_neg hlong)).trans (nonBinaryError_srcBytes_eq_some _ hleast))

/-- Settles O20: the chain of checks, the content checks on the frame by index; the payload cells are SRC cells. -/
theorem fparseFollowsItsRule : Obligations.FparseFollowsItsRule := by
  refine ⟨decode_encode_of_wellFormed (i := .fparse) rfl, fun s => ⟨?_, completesWith_fparse⟩⟩
  have hfails {e : CmdError} (h : fparseCheck s = some e) : FailsWith .fparse s e.kind.code e.info :=
    failsWith_of_failingCheck (by decide) h
  split
  · next hunaligned => exact hfails (if_pos hunaligned)
  next haligned =>
  split
  · next hlarge => exact hfails ((if_neg haligned).trans (if_pos hlarge))
  next hfits =>
  refine ⟨fun k hleast => ?_, failsWith_fparse (not_not.mp haligned) (Nat.not_lt.mp hfits)⟩
  have hcells := nonBinaryError_srcBytes_eq_some .nonBinaryInput hleast
  exact hfails (((if_neg haligned).trans (if_neg hfits)).trans (by rw [hcells]; rfl))

/-- Settles O25: the shifts, the input bits and the reversal each agree with their forms on numbers. -/
theorem crcMatchesItsPseudocode : Obligations.CrcMatchesItsPseudocode := by
  intro c y
  have hreg (reg : BitVec 16) : (y.foldl (crcByte c.crcParams) reg).toNat = (y.map BitVec.toNat).foldl
      (fun reg d => Nat.repeat (refCrcShift c.crcPoly.toNat) 8
        (reg ^^^ ((if c.refin then refReflect 8 d else d) <<< 8))) reg.toNat := by
    induction y generalizing reg with
    | nil => rfl
    | cons y ys ih => rw [List.foldl_cons, ih, toNat_crcByte]; rfl
  rw [crc16, BitVec.toNat_xor, apply_ite BitVec.toNat, toNat_reverse, hreg]
  rfl

/-- Settles O36: the built frame has the header, its length and its CRC in their fields, so it passes the checks. -/
theorem fparseUndoesFbuild : Obligations.FparseUndoesFbuild := by
  intro s u haligned hfits hbinary hparams hheader hlength
  obtain ⟨t, hexec, hcsrBuilt, hframe, -⟩ := completesWith_fbuild haligned hfits hbinary
  refine ⟨t, hexec, fun hcopy => ?_⟩
  have hreceives : Receives u (refFrame s) (s.srcLen / 8) :=
    ⟨by omega, hfits, fun i hi => (hcopy i (by omega)).trans (hframe i (by omega))⟩
  have hdeclared := toNat_refField_refFrame_length hfits
  have hcrc : refCrcOf u (refFrame s) (4 + s.srcLen / 8) = refCrcOf s (refFrame s) (4 + s.srcLen / 8) :=
    refCrcOf_congr hparams fun _ _ => rfl
  obtain ⟨v, hrun, hcsr, hpayload, -⟩ := hreceives.completesWith ((refField_refFrame_header s).trans hheader.symm)
    hdeclared.le (hcrc.trans (refField_refFrame_crc s).symm)
  rw [hdeclared, show 8 * (s.srcLen / 8) = s.srcLen by omega] at hcsr hpayload
  refine ⟨v, hrun, by rw [hcsr], ?_, ?_, fun i hi => ?_⟩
  · rw [hcsr]
    exact (BitVec.ofNat_toNat ..).trans (BitVec.setWidth_eq _)
  · rw [hcsr, hcsrBuilt]
    exact hcrc.trans (refCrcOf_congr rfl fun j hj => refFrame_of_lt hj)
  · exact (hpayload i hi).trans (refUnpacked_refFrame_payload haligned hbinary hi)

/-- Settles O37: by the field the flipped bit lies in. What the CRC covers changes it exactly if CRC_POLY is not 0. -/
theorem fparseDetectsASingleFlippedBit : Obligations.FparseDetectsASingleFlippedBit := by
  intro s u b haligned hfits hbinary hparams hheader hlength hb
  obtain ⟨t, hexec, -, hframe, -⟩ := completesWith_fbuild haligned hfits hbinary
  refine ⟨t, hexec, fun hcopy => ?_⟩
  have hreceives : Receives u (flipBit (refFrame s) b) (s.srcLen / 8) :=
    ⟨by omega, hfits, fun i hi => by rw [refUnpacked_flipBit, hcopy i (by omega), hframe i (by omega)]⟩
  have hpolyEq : u.csr.crcPoly = s.csr.crcPoly := congrArg CrcParams.poly hparams
  rw [hreceives.refField_eq (by omega)]
  intro declared
  by_cases hinHeader : b < 16
  · obtain ⟨v, hrun, hreport⟩ := hreceives.report_header hheader hinHeader
    exact ⟨v, hrun, by simpa [hinHeader] using fun _ => hreport, by simpa [hinHeader] using fun _ => hreport⟩
  have hunraised (hafter : ¬ b < 32) : declared = s.srcLen / 8 := by
    change (refField _ 2).toNat = _
    rw [refField_flipBit_eq _ (by omega) (by omega), toNat_refField_refFrame_length hfits]
  by_cases hraised : s.srcLen / 8 < declared
  · have hinLength : b < 32 := by
      by_contra hafter
      exact absurd (hunraised hafter) hraised.ne'
    obtain ⟨v, hrun, herr, hcode⟩ := hreceives.report_raised hheader hinHeader hraised
    exact ⟨v, hrun, by simp [hinHeader, hinLength, herr, hcode], by simp [hinHeader, hinLength, hraised, herr, hcode]⟩
  by_cases hbody : b < 32 + s.srcLen
  · have hcrcField := refField_flipBit_crc_of_body hparams (b := b) (by omega)
    by_cases hpoly : s.csr.crcPoly = 0
    · obtain ⟨v, hrun, hcsr, -⟩ := hreceives.completesWith (refField_flipBit_header hheader hinHeader)
        (Nat.not_lt.mp hraised) ((refCrcOf_of_poly_zero (hpolyEq.trans hpoly) ..).trans hcrcField.symm)
      exact ⟨v, hrun, fun hne => absurd hpoly hne, by simp [hinHeader, hraised, hbody, hcsr, declared]⟩
    · obtain ⟨v, hrun, herr, hcode⟩ := hreceives.report_crc hheader hinHeader hraised
        (hcrcField ▸ refCrcOf_flipBit_ne (hpolyEq ▸ hpoly) _ (by omega))
      exact ⟨v, hrun, by simp [hinHeader, herr, hcode], fun h => absurd h hpoly⟩
  · obtain ⟨v, hrun, herr, hcode⟩ := hreceives.report_crc hheader hinHeader hraised
      (refCrcOf_flipBit_ne_field hparams (by omega))
    exact ⟨v, hrun, by simp [hinHeader, herr, hcode], by simp [hinHeader, hraised, hbody, herr, hcode]⟩

/-- Settles O26: evaluation over the nine bytes. -/
theorem crcCheckValues : Obligations.CrcCheckValues := by
  unfold Obligations.CrcCheckValues
  decide +kernel

end Sys2Proof.Machine
end

section
/-! 60_exceptions.md settled: acceptance, dropping and completion of a command, precise errors, the interrupt output. -/

namespace Sys2Proof.Machine

/-! Completion (60_exceptions.md R336). -/

theorem sequencerTurn_of_decode {s : State} {i : Instr} (hbusy : s.csr.busy = true) (hdecode : decode s.csr.lastCmd = .ok i) :
    sequencerTurn s = exec i s := by
  simp [sequencerTurn, hbusy, hdecode]

theorem step_of_no_event {s : State} (h : s.events = []) : step s = sequencerTurn s := by
  simp [step, h]

theorem step_sequencer {s : State} {rest : List Event} (h : s.events = .sequencer :: rest) :
    step s = sequencerTurn { s with events := rest } := by
  simp [step, h, handleEvent]

/-- Settles O4: both forms of the step are the sequencer's turn, which runs the decoded command. -/
theorem stepRunsTheLatchedCommand : Obligations.StepRunsTheLatchedCommand := by
  intro s i hbusy hdecode
  refine ⟨fun rest hev => ?_, fun hev => ?_⟩
  · exact (step_sequencer hev).trans (sequencerTurn_of_decode (s := { s with events := rest }) hbusy hdecode)
  · exact (step_of_no_event hev).trans (sequencerTurn_of_decode hbusy hdecode)

/-- A completion leaves the bus side and the epochs alone and is counted, with a result or with an error. -/
theorem exec_bookkeeping {i : Instr} {s t : State} (h : exec i s = .next t) : bookkeeping s t := by
  rcases exec_cases i s with ⟨-, hok⟩ | ⟨e, -, herr⟩
  · cases hok.symm.trans h
    exact ⟨rfl, rfl, rfl, rfl, rfl⟩
  · cases herr.symm.trans h
    split <;> exact ⟨rfl, rfl, rfl, rfl, rfl⟩

theorem exec_doneFlag {i : Instr} {s t : State} (h : exec i s = .next t) : t.csr.doneFlag = true := by
  rcases exec_csr_cases h with ⟨_, _, _, _, hcsr⟩ | ⟨_, hcsr⟩ <;> simp [hcsr]

theorem exists_exec_next (i : Instr) (s : State) : ∃ t, exec i s = .next t := by
  rcases exec_cases i s with ⟨-, hok⟩ | ⟨e, -, herr⟩
  · exact ⟨_, hok⟩
  · exact ⟨_, herr⟩

/-- The output of a command fits in DST, so every byte outside DST reads as before. -/
theorem exec_readByte_outside_dst {i : Instr} {s t : State} (h : exec i s = .next t) {a : Nat}
    (ha : a < 0x200000 ∨ 0x300000 ≤ a) : t.readByte a = s.readByte a := by
  obtain ⟨hroom, hkeep⟩ := commandsWriteOnlyTheirOutput i s t h
  exact hkeep a (by omega)

/-- A success leaves the error report alone; an error changes nothing but the status, and no byte (R333). -/
theorem exec_success_or_error {i : Instr} {s t : State} (h : exec i s = .next t) :
    (t.csr.err = s.csr.err ∧ t.csr.errcode = s.csr.errcode ∧ t.csr.errInfo = s.csr.errInfo) ∨
    ((∀ a, t.readByte a = s.readByte a) ∧ t.csr.errcode ≠ 0 ∧
      t.csr = { s.csr with
        errcode := t.csr.errcode, errInfo := t.csr.errInfo, err := true, dstLen := 0, busy := false, doneFlag := true
        ilvValid := if i = .ilvchk then false else s.csr.ilvValid }) := by
  rcases exec_cases i s with ⟨-, hok⟩ | ⟨e, -, herr⟩
  · cases hok.symm.trans h
    obtain ⟨dstLen, rsc1, rsc2, crc, hcsr⟩ := commandEffect_csr i s
    rw [completeOk_csr, hcsr]
    exact .inl ⟨rfl, rfl, rfl⟩
  · cases herr.symm.trans h
    refine .inr ⟨fun a => ?_, e.kind.code_listed.2, ?_⟩ <;> split <;> rfl

/-- Settles O38: the completion of either arm, its frame in memory and its frame in the registers. -/
theorem everyCommandCompletesPrecisely : Obligations.EveryCommandCompletesPrecisely := by
  intro i s
  obtain ⟨t, hrun⟩ := exists_exec_next i s
  exact ⟨t, hrun, exec_bookkeeping hrun, exec_busy hrun, exec_doneFlag hrun, fun _ => exec_readByte_outside_dst hrun,
    exec_success_or_error hrun⟩

/-! CMD writes (R335, R337). -/

theorem step_writeCmd {s : State} {a : Addr} {w : Word} {rest : List Event} (h : s.events = .hostWrite a w :: rest)
    (ha : a.toNat = Reg.cmd.offset) : step s = .next (writeCmd w { s with events := rest }) := by
  simp [step_storeReg h ha (.inr rfl), busStore, ha]

theorem step_acceptCmd {s : State} {w : Word} {rest : List Event} (hidle : s.csr.busy = false)
    (h : s.events = .hostWrite 0x010 w :: rest) : step s = .next (acceptCmd w { s with events := rest }) := by
  simp [step_writeCmd h rfl, writeCmd, hidle]

/-- Settles O6: the write reaches `writeCmd`, which accepts in IDLE; DONE is then 0, and IRQ with it. -/
theorem cmdWriteInIdleIsAccepted : Obligations.CmdWriteInIdleIsAccepted := by
  intro s w rest hidle hev
  refine ⟨_, step_acceptCmd hidle hev, ?_, rfl⟩
  simp [Csr.irq]

/-! What lowers CMD_OVR (R337). -/

theorem sequencerTurn_cmdOvr {s t : State} (h : sequencerTurn s = .next t) : t.csr.cmdOvr = s.csr.cmdOvr := by
  rcases sequencerTurn_cases s with ⟨-, hidle⟩ | ⟨-, i, -, hrun⟩ | ⟨-, e, -, hillegal⟩
  · cases hidle.symm.trans h
    rfl
  · exact (exec_keeps_bus (hrun.symm.trans h)).1
  · cases hillegal.symm.trans h
    rfl

theorem hostRead_cmdOvr (a : Addr) (s : State) : (hostRead a s).csr.cmdOvr = s.csr.cmdOvr := by
  rcases hostRead_cases a s with ⟨cause, -, hread⟩ | ⟨-, hread⟩ <;> rw [hread]
  simp [Csr.noteAccess_eq]

/-- Of the host writes, one to STATUS with bit 3 and a soft reset lower CMD_OVR, and no other. -/
theorem hostWrite_lowers_cmdOvr {a : Addr} {v : Word} {s : State} (hhigh : s.csr.cmdOvr = true)
    (hlow : (hostWrite a v s).csr.cmdOvr = false) :
    a = 0x00C ∧ v.getLsbD 3 = true ∨ a = 0x008 ∧ v.getLsbD 1 = true := by
  rcases hostWrite_cases a v s with
    ⟨cause, -, hwrite⟩ | ⟨-, ⟨hreg, hwrite⟩ | ⟨-, hwrite⟩ | ⟨r, hreg, -, -, hwrite⟩ | ⟨-, hwrite⟩⟩
  all_goals rw [hwrite] at hlow
  · simp [Csr.noteAccess_eq, hhigh] at hlow
  · unfold writeCtrl at hlow
    split at hlow
    · next hreset => exact .inr ⟨BitVec.eq_of_toNat_eq (regOf_eq_some_iff.mp hreg), hreset⟩
    · simp [hhigh] at hlow
  · unfold writeCmd at hlow
    split at hlow <;> simp [hhigh] at hlow
  · obtain ⟨rfl, hbit⟩ : r = .status ∧ v.getLsbD 3 = true := by simpa [hhigh] using hlow
    exact .inl ⟨BitVec.eq_of_toNat_eq (regOf_eq_some_iff.mp hreg), hbit⟩
  · rw [writeRam_csr_eq] at hlow
    simp [hhigh] at hlow

/-- Settles O7: the write reaches `writeCmd`, which drops it while BUSY; and of the events only the two writes that lower
CMD_OVR and power-on reset do not keep it. -/
theorem cmdWriteWhileBusyIsDropped : Obligations.CmdWriteWhileBusyIsDropped := by
  refine ⟨fun s w rest hbusy hev => ?_, fun s t hstep hhigh hlow => ?_⟩
  · simp [step_writeCmd hev rfl, writeCmd, hbusy, dropCmd]
  · have hchange : t.csr.cmdOvr ≠ s.csr.cmdOvr := by simp [hhigh, hlow]
    rcases step_cases s with ⟨-, hs⟩ | ⟨es, -, hs⟩ | ⟨a, es, -, hs⟩ | ⟨a, v, es, hev, hs⟩ | ⟨es, hev, hs⟩
    · exact absurd (sequencerTurn_cmdOvr (hs.symm.trans hstep)) hchange
    · exact absurd (sequencerTurn_cmdOvr (hs.symm.trans hstep)) hchange
    all_goals cases hs.symm.trans hstep
    · exact absurd (hostRead_cmdOvr a { s with events := es }) hchange
    · rcases hostWrite_lowers_cmdOvr (s := { s with events := es }) hhigh hlow with ⟨rfl, hbit⟩ | ⟨rfl, hbit⟩
      · exact .inl ⟨v, es, hev, hbit⟩
      · exact .inr (.inl ⟨v, es, hev, hbit⟩)
    · exact .inr (.inr ⟨es, hev⟩)

/-! The interrupt output (R340). -/

/-- Settles O53: a completion raises DONE and keeps IRQ_EN; each of the writes gives DONE or IRQ_EN its value. -/
theorem interruptFollowsDone : Obligations.InterruptFollowsDone := by
  refine ⟨fun i s t hrun => ?_, fun s t v rest hstep => ⟨fun hidle hev => ?_, fun hev hclear => ?_, fun hev hlow => ?_,
    fun hev hset henable hdone => ?_⟩⟩
  · have hkeep : t.csr.irqEn = s.csr.irqEn := (congrArg Csr.irqEn (commandsKeepTheOtherRegisters i s t hrun) :)
    simp [Csr.irq, exec_doneFlag hrun, hkeep]
  · cases (step_acceptCmd hidle hev).symm.trans hstep
    simp [Csr.irq]
  · cases (statusWriteClearsWrittenOnes s v rest hev).symm.trans hstep
    simp [Csr.irq, hclear]
  · cases (step_writeCtrl hev rfl).symm.trans hstep
    unfold writeCtrl
    split
    · rfl
    · next hreset => simp only [Csr.irq, hlow.resolve_left hreset, Bool.false_and]
  · cases (ctrlWriteSetsIrqEnable s v rest hset hev).symm.trans hstep
    simp [Csr.irq, henable, hdone]

end Sys2Proof.Machine
end

section
/-! 70_reset_and_hazards.md settled for reset and for the end of a run. -/

namespace Sys2Proof.Machine

/-! Reset (70_reset_and_hazards.md R370, R372). -/

/-- Settles O44: nothing is listed in memory, ILV_VALID is 0, and the report is that of no error. -/
theorem resetMeetsTheInvariants : Obligations.ResetMeetsTheInvariants :=
  ⟨memoryKept_of_empty rfl, interleaverKept_of_invalid rfl,
    Csr.reportsKept_of_no_error (by decide) rfl rfl rfl nofun⟩

/-- Settles O45: the pairs are the registers' addresses with what each reads of the reset values, and a register read is
legal at any time. -/
theorem resetRegisterValues : Obligations.ResetRegisterValues := by
  refine ⟨fun p hp => ?_, rfl, rfl⟩
  obtain ⟨r, -, rfl⟩ : ∃ r ∈ Reg.all, (BitVec.ofNat 23 r.offset, Csr.reset.readReg r) = p := List.mem_map.mp hp
  have haddr : (BitVec.ofNat 23 r.offset).toNat = r.offset := by cases r <;> rfl
  refine ⟨by simp [accessCause_reg _ _ haddr], ?_⟩
  dsimp only
  rw [busValue, haddr, regOf_offset]
  rfl

/-- Settles O46: a CTRL write with bit 1 is a soft reset, which forgets DST only and only when it aborts a command. -/
theorem softResetResetsTheRegisters : Obligations.SoftResetResetsTheRegisters := by
  intro s v rest hbit hev
  have hstep : step s = .next (softReset { s with events := rest }) := by
    rw [step_writeCtrl hev rfl, writeCtrl, if_pos hbit]
  refine ⟨_, hstep, rfl, by simp, by simp, by simp, fun hidle a => ?_, fun a ha => ?_⟩
  · exact softReset_readByte { s with events := rest } (.inl hidle)
  · have houtside : Region.dst.contains a = false := by
      rw [← Bool.not_eq_true, Region.contains_iff]
      simp only [Region.base, Region.size, Config.bufBytes]
      omega
    exact softReset_readByte { s with events := rest } (.inr houtside)

/-- Settles O47: the event is `powerOnReset` on the state without it. -/
theorem powerOnResetForgetsEverything : Obligations.PowerOnResetForgetsEverything := by
  intro s rest hev
  have hstep : step s = .next (powerOnReset { s with events := rest }) := by simp [step, hev, handleEvent]
  exact ⟨_, hstep, rfl, powerOnReset_lookup _, rfl, rfl, rfl⟩

/-! The end of a run (R383, R384). -/

/-- The sequencer's turn ends IDLE and leaves the pending events alone. -/
theorem exists_sequencerTurn_next (s : State) :
    ∃ t, sequencerTurn s = .next t ∧ t.events = s.events ∧ t.csr.busy = false := by
  rcases sequencerTurn_cases s with ⟨hidle, hturn⟩ | ⟨-, i, -, hturn⟩ | ⟨-, e, -, hturn⟩
  · exact ⟨s, hturn, rfl, hidle⟩
  · obtain ⟨t, hrun⟩ := exists_exec_next i s
    obtain ⟨hevents, -⟩ := exec_bookkeeping hrun
    exact ⟨t, hturn.trans hrun, hevents, exec_busy hrun⟩
  · exact ⟨_, hturn, rfl, rfl⟩

theorem hostRead_events (a : Addr) (s : State) : (hostRead a s).events = s.events := by
  rcases hostRead_cases a s with ⟨cause, -, hread⟩ | ⟨-, hread⟩
  · exact (congrArg State.events hread :)
  · exact (congrArg State.events hread :)

theorem hostWrite_events (a : Addr) (v : Word) (s : State) : (hostWrite a v s).events = s.events := by
  rcases hostWrite_cases a v s with
    ⟨cause, -, hwrite⟩ | ⟨-, ⟨-, hwrite⟩ | ⟨-, hwrite⟩ | ⟨r, -, -, -, hwrite⟩ | ⟨-, hwrite⟩⟩
  all_goals rw [hwrite]
  · exact noteIllegal_events ..
  · unfold writeCtrl
    split
    · exact softReset_events s
    · rfl
  · unfold writeCmd
    split <;> rfl
  · exact writeRam_events a v s

/-- A step takes the next pending event, whichever it is, and answers a next state. -/
theorem exists_step_next {s : State} {e : Event} {rest : List Event} (h : s.events = e :: rest) :
    ∃ t, step s = .next t ∧ t.events = rest := by
  cases e with
  | hostRead a => exact ⟨_, step_hostRead h, hostRead_events a _⟩
  | hostWrite a v => exact ⟨_, step_hostWrite h, hostWrite_events a v _⟩
  | sequencer =>
    obtain ⟨t, hturn, hevents, -⟩ := exists_sequencerTurn_next { s with events := rest }
    exact ⟨t, (step_sequencer h).trans hturn, hevents⟩
  | powerOn => exact ⟨powerOnReset { s with events := rest }, by simp [step, h, handleEvent], rfl⟩

theorem run_succ_of_step {s t : State} (k : Nat) (h : step s = .next t) :
    Host.Core.run core (k + 1) s = Host.Core.run core k t := by
  simp [Host.Core.run, core, h]

/-- The run takes the pending events `es` one by one, and then the sequencer's last turn. -/
theorem exists_run_finished (es : List Event) : ∀ s : State, s.events = es →
    ∃ t, Host.Core.run core (es.length + 1) s = .next t ∧ t.finished := by
  induction es with
  | nil =>
    intro s hev
    obtain ⟨t, hturn, hevents, hidle⟩ := exists_sequencerTurn_next s
    exact ⟨t, run_succ_of_step 0 ((step_of_no_event hev).trans hturn), hevents.trans hev, hidle⟩
  | cons e rest ih =>
    intro s hev
    obtain ⟨u, hstep, hevents⟩ := exists_step_next hev
    obtain ⟨t, hrun, hfinished⟩ := ih u hevents
    exact ⟨t, (run_succ_of_step _ hstep).trans hrun, hfinished⟩

/-- Settles O56, by induction on the pending events. -/
theorem everyRunFinishes : Obligations.EveryRunFinishes := fun s => exists_run_finished s.events s rfl

end Sys2Proof.Machine
end

section
/-! SUPPORT. Two states that differ in the contents of DST only: what a command reads is the same in both. -/

namespace Sys2Proof.Machine

/-- The two states have the same registers, the same count of completions and the same bytes outside DST. -/
structure SameButDst (s u : State) : Prop where
  csr : u.csr = s.csr
  completions : u.completions = s.completions
  bytes : ∀ a, (a < 0x200000 ∨ 0x300000 ≤ a) → u.readByte a = s.readByte a

namespace SameButDst

section
variable {s u : State}

/-! What the registers say. -/

theorem srcLen_eq (h : SameButDst s u) : u.srcLen = s.srcLen := by rw [State.srcLen, h.csr, State.srcLen]
theorem frameN_eq (h : SameButDst s u) : u.frameN = s.frameN := by rw [State.frameN, h.csr, State.frameN]
theorem spb_eq (h : SameButDst s u) : u.spb = s.spb := by rw [State.spb, h.csr, State.spb]
theorem sps_eq (h : SameButDst s u) : u.sps = s.sps := by rw [State.sps, h.csr, State.sps]
theorem fl_eq (h : SameButDst s u) : u.fl = s.fl := by rw [State.fl, h.csr, State.fl]
theorem nt_eq (h : SameButDst s u) : u.nt = s.nt := by rw [State.nt, h.csr, State.nt]
theorem symbols_eq (h : SameButDst s u) : u.symbols = s.symbols := by rw [State.symbols, h.fl_eq, State.symbols]
theorem signalLen_eq (h : SameButDst s u) : u.signalLen = s.signalLen := by
  rw [State.signalLen, h.symbols_eq, h.sps_eq, h.nt_eq, State.signalLen]
theorem matchedLen_eq (h : SameButDst s u) : u.matchedLen = s.matchedLen := by
  rw [State.matchedLen, h.signalLen_eq, h.nt_eq, State.matchedLen]
theorem sampleOffset_eq (h : SameButDst s u) : u.sampleOffset = s.sampleOffset := by
  simp only [State.sampleOffset, h.csr, h.nt_eq, h.sps_eq]
theorem rscRun_eq (h : SameButDst s u) : u.rscRun = s.rscRun := by
  funext x
  simp only [State.rscRun, h.csr]

/-! What the memory holds. SRC stands right before DST, so it needs a bound; the other tables are out of reach of DST,
whatever their lengths in the registers are. -/

theorem memRead_eq (h : SameButDst s u) {r : Region} {off n : Nat}
    (houtside : r.base + off + n ≤ 0x200000 ∨ 0x300000 ≤ r.base + off) : memRead r off n u = memRead r off n s := by
  have hbytes : u.readBytes (r.base + off) n = s.readBytes (r.base + off) n :=
    List.map_congr_left fun i hi => h.bytes _ (by have := List.mem_range.mp hi; omega)
  rw [memRead, memRead, hbytes]

theorem f64At_eq (h : SameButDst s u) {r : Region} {i : Nat}
    (houtside : r.base + (8 * i + 8) ≤ 0x200000 ∨ 0x300000 ≤ r.base) : u.f64At r i = s.f64At r i := by
  rw [State.f64At, State.f64At, h.memRead_eq (by omega)]

theorem table_eq (h : SameButDst s u) {r : Region} {n : Nat}
    (houtside : r.base + 8 * n ≤ 0x200000 ∨ 0x300000 ≤ r.base) : u.table r n = s.table r n :=
  List.map_congr_left fun i hi => h.f64At_eq (by have := List.mem_range.mp hi; omega)

theorem carrier_eq (h : SameButDst s u) : u.table .acar s.spb = s.table .acar s.spb := by
  have hspb : s.spb < 2 ^ 16 := s.csr.askSpb.isLt
  exact h.table_eq (by rw [Region.base]; omega)

theorem taps_eq (h : SameButDst s u) : u.table .tap s.nt = s.table .tap s.nt := by
  have hnt : s.nt < 2 ^ 11 := s.csr.qpskNtaps.isLt
  exact h.table_eq (by rw [Region.base]; omega)

theorem qcos_eq (h : SameButDst s u) (n : Nat) : u.table .qcos n = s.table .qcos n := h.table_eq (.inr (by decide))

theorem qsin_eq (h : SameButDst s u) (n : Nat) : u.table .qsin n = s.table .qsin n := h.table_eq (.inr (by decide))

theorem noise_eq (h : SameButDst s u) (i : Nat) : u.f64At .noise i = s.f64At .noise i := h.f64At_eq (.inr (by decide))

theorem ilvEntry_eq (h : SameButDst s u) {k : Nat} (hk : k < s.frameN) : u.ilvEntry k = s.ilvEntry k := by
  have hframe : s.frameN < 2 ^ 16 := s.csr.frameLen.isLt
  exact h.memRead_eq (by rw [Region.base]; omega)

theorem perm_eq (h : SameButDst s u) : u.perm = s.perm := by
  rw [State.perm, h.frameN_eq, State.perm]
  exact List.map_congr_left fun k hk => h.ilvEntry_eq (List.mem_range.mp hk)

theorem src8_eq (h : SameButDst s u) {i : Nat} (hi : i < 0x100000) : u.src8 i = s.src8 i :=
  h.bytes _ (by rw [Region.base]; omega)

theorem srcBytes_eq (h : SameButDst s u) {n : Nat} (hn : n ≤ 0x100000) : u.srcBytes n = s.srcBytes n :=
  List.map_congr_left fun i hi => h.src8_eq (by have := List.mem_range.mp hi; omega)

theorem srcBits_eq (h : SameButDst s u) {n : Nat} (hn : n ≤ 0x100000) : u.srcBits n = s.srcBits n := by
  rw [State.srcBits, h.srcBytes_eq hn, State.srcBits]

theorem src64_eq (h : SameButDst s u) {i : Nat} (hi : 8 * i + 8 ≤ 0x100000) : u.src64 i = s.src64 i :=
  h.f64At_eq (by rw [Region.base]; omega)

theorem srcF64s_eq (h : SameButDst s u) {n : Nat} (hn : 8 * n ≤ 0x100000) : u.srcF64s n = s.srcF64s n :=
  List.map_congr_left fun i hi => h.src64_eq (by have := List.mem_range.mp hi; omega)

/-! The checks. Those that scan SRC come after the one that bounds the scan (60_exceptions.md R331). -/

theorem rscConfigCheck_eq (h : SameButDst s u) : rscConfigCheck u = rscConfigCheck s := by
  simp only [rscConfigCheck, h.csr]

theorem qpskConfigCheck_eq (h : SameButDst s u) : qpskConfigCheck u = qpskConfigCheck s := by
  simp only [qpskConfigCheck, h.sps_eq, h.fl_eq, h.nt_eq]

theorem frameLenCheck_eq (h : SameButDst s u) : frameLenCheck u = frameLenCheck s := by simp only [frameLenCheck, h.csr]

theorem ilvValidCheck_eq (h : SameButDst s u) : ilvValidCheck u = ilvValidCheck s := by simp only [ilvValidCheck, h.csr]

theorem frameLengthCheck_eq (h : SameButDst s u) : frameLengthCheck u = frameLengthCheck s := by
  simp only [frameLengthCheck, h.srcLen_eq, h.frameN_eq, h.csr]

theorem ilvchkCheck_eq (h : SameButDst s u) : ilvchkCheck u = ilvchkCheck s := by
  simp only [ilvchkCheck, h.csr, h.frameN_eq, h.perm_eq]

theorem interleaverCheck_eq (h : SameButDst s u) : interleaverCheck u = interleaverCheck s := by
  simp only [interleaverCheck, h.frameLenCheck_eq, h.ilvValidCheck_eq, h.frameLengthCheck_eq]

theorem tdecCheck_eq (h : SameButDst s u) (iter : BitVec 8) : tdecCheck iter u = tdecCheck iter s := by
  simp only [tdecCheck, h.csr, h.frameLenCheck_eq, h.ilvValidCheck_eq, h.srcLen_eq, h.frameN_eq]

theorem unpackCheck_eq (h : SameButDst s u) : unpackCheck u = unpackCheck s := by
  simp only [unpackCheck, h.srcLen_eq, h.csr]

theorem ademCheck_eq (h : SameButDst s u) : ademCheck u = ademCheck s := by
  simp only [ademCheck, h.srcLen_eq, h.spb_eq, h.csr]

theorem qdemCheck_eq (h : SameButDst s u) : qdemCheck u = qdemCheck s := by
  simp only [qdemCheck, sampleCheck, h.qpskConfigCheck_eq, h.sampleOffset_eq, h.matchedLen_eq, h.symbols_eq, h.sps_eq,
    h.srcLen_eq, h.signalLen_eq, h.fl_eq, h.csr]

theorem packCheck_eq (h : SameButDst s u) : packCheck u = packCheck s := by
  have hbuf : Config.bufBytes = 0x100000 := rfl
  simp only [packCheck, h.srcLen_eq, h.csr]
  split_ifs
  · rfl
  · rfl
  · rw [h.srcBytes_eq (by omega)]

/-- CRC has the checks of PACK (46_framer.md R301). -/
theorem crcCheck_eq (h : SameButDst s u) : crcCheck u = crcCheck s := h.packCheck_eq

theorem fbuildCheck_eq (h : SameButDst s u) : fbuildCheck u = fbuildCheck s := by
  have hpayload : Config.payloadMax = 65535 := rfl
  simp only [fbuildCheck, h.srcLen_eq, h.csr]
  split_ifs
  · rfl
  · rfl
  · rw [h.srcBytes_eq (by omega)]

theorem fparseCheck_eq (h : SameButDst s u) : fparseCheck u = fparseCheck s := by
  have hbuf : Config.bufBytes = 0x100000 := rfl
  simp only [fparseCheck, h.srcLen_eq, h.csr]
  split_ifs
  · rfl
  · rfl
  · rw [h.srcBytes_eq (by omega), h.srcBits_eq (by omega)]

theorem amodCheck_eq (h : SameButDst s u) : amodCheck u = amodCheck s := by
  have hbuf : Config.bufBytes = 0x100000 := rfl
  simp only [amodCheck, h.srcLen_eq, h.spb_eq, h.csr]
  split_ifs
  · rfl
  · rfl
  · rw [h.srcBytes_eq (by omega)]
  · rfl

theorem qmodCheck_eq (h : SameButDst s u) : qmodCheck u = qmodCheck s := by
  have hbuf : Config.bufBytes = 0x100000 := rfl
  simp only [qmodCheck, h.qpskConfigCheck_eq, h.srcLen_eq, h.fl_eq, h.signalLen_eq, h.csr]
  split_ifs
  · rfl
  · rfl
  · rfl
  · rw [h.srcBytes_eq (by omega)]

/-- Where SRC_LEN = N is checked first, the scan of SRC is short: N has 16 bits. -/
theorem frameLengthCheck_orElse_nonBinaryError_eq (h : SameButDst s u) (kind : ErrKind) :
    (frameLengthCheck u <|> nonBinaryError kind (u.srcBytes u.srcLen)) =
      (frameLengthCheck s <|> nonBinaryError kind (s.srcBytes s.srcLen)) := by
  have hframe : s.frameN < 2 ^ 16 := s.csr.frameLen.isLt
  rw [h.frameLengthCheck_eq, h.srcLen_eq, frameLengthCheck]
  split_ifs
  · rfl
  · rw [h.srcBytes_eq (by omega)]

theorem rscencCheck_eq (h : SameButDst s u) : rscencCheck u = rscencCheck s := by
  simp only [rscencCheck, h.rscConfigCheck_eq, h.frameLengthCheck_orElse_nonBinaryError_eq]

theorem tencCheck_eq (h : SameButDst s u) : tencCheck u = tencCheck s := by
  simp only [tencCheck, h.rscConfigCheck_eq, h.ilvValidCheck_eq, h.frameLengthCheck_orElse_nonBinaryError_eq]

theorem failingCheck_eq (h : SameButDst s u) (i : Instr) : failingCheck i u = failingCheck i s := by
  cases i with
  | nop => rfl
  | ilvchk => exact h.ilvchkCheck_eq
  | pack => exact h.packCheck_eq
  | unpack => exact h.unpackCheck_eq
  | rscenc => exact h.rscencCheck_eq
  | ilv | dilv => exact h.interleaverCheck_eq
  | tenc => exact h.tencCheck_eq
  | tdec iter => exact h.tdecCheck_eq iter
  | crc => exact h.crcCheck_eq
  | fbuild => exact h.fbuildCheck_eq
  | fparse => exact h.fparseCheck_eq
  | amod => exact h.amodCheck_eq
  | adem => exact h.ademCheck_eq
  | qmod => exact h.qmodCheck_eq
  | qdem => exact h.qdemCheck_eq

/-! The effects of commands whose checks pass. -/

/-- The commands that read SRC_LEN elements of SRC with no other bound check that SRC holds as many bytes. -/
theorem srcLen_le_of_failingCheck {i : Instr} (hi : i ∈ [Instr.pack, .unpack, .crc, .fbuild, .fparse, .amod])
    (hpass : failingCheck i s = none) : s.srcLen ≤ 0x100000 := by
  have hbuf : Config.bufBytes = 0x100000 := rfl
  have hpayload : Config.payloadMax = 65535 := rfl
  cases i with
  | pack | unpack | crc | fbuild | fparse | amod =>
    simp only [failingCheck, packCheck, unpackCheck, crcCheck, fbuildCheck, fparseCheck, amodCheck] at hpass
    split_ifs at hpass
    omega
  | _ => simp at hi

theorem packEffect_eq (h : SameButDst s u) (hfits : s.srcLen ≤ 0x100000) : packEffect u = packEffect s := by
  simp only [packEffect, h.srcLen_eq, h.srcBits_eq hfits, h.csr]

theorem unpackEffect_eq (h : SameButDst s u) (hfits : s.srcLen ≤ 0x100000) : unpackEffect u = unpackEffect s := by
  simp only [unpackEffect, h.srcLen_eq, h.srcBytes_eq hfits, h.csr]

theorem crcEffect_eq (h : SameButDst s u) (hfits : s.srcLen ≤ 0x100000) : crcEffect u = crcEffect s := by
  simp only [crcEffect, h.srcLen_eq, h.srcBits_eq hfits, h.csr]

theorem fbuildEffect_eq (h : SameButDst s u) (hfits : s.srcLen ≤ 0x100000) : fbuildEffect u = fbuildEffect s := by
  simp only [fbuildEffect, h.srcLen_eq, h.srcBits_eq hfits, h.csr]

theorem fparseEffect_eq (h : SameButDst s u) (hfits : s.srcLen ≤ 0x100000) : fparseEffect u = fparseEffect s := by
  simp only [fparseEffect, h.srcLen_eq, h.srcBits_eq hfits, h.csr]

theorem releasedF64s_eq (h : SameButDst s u) (xs : List F64) : releasedF64s u xs = releasedF64s s xs := by
  rw [releasedF64s, h.completions, releasedF64s]

theorem amodEffect_eq (h : SameButDst s u) (hfits : s.srcLen ≤ 0x100000) : amodEffect u = amodEffect s := by
  simp only [amodEffect, h.releasedF64s_eq, h.spb_eq, h.carrier_eq, h.srcLen_eq, h.srcBits_eq hfits, h.csr]

theorem qmodEffect_eq (h : SameButDst s u) (hpass : qmodCheck s = none) : qmodEffect u = qmodEffect s := by
  have hbuf : Config.bufBytes = 0x100000 := rfl
  obtain ⟨-, hsizes⟩ := (Option.orElse_eq_none _ _).mp hpass
  split_ifs at hsizes
  simp only [qmodEffect, h.releasedF64s_eq, h.nt_eq, h.taps_eq, h.qcos_eq, h.qsin_eq, h.signalLen_eq, h.sps_eq, h.fl_eq,
    h.csr]
  rw [h.srcBits_eq (by omega)]

/-- Every segment ends within the SRC_LEN elements of SRC. -/
theorem ademEffect_eq (h : SameButDst s u) (hpass : ademCheck s = none) : ademEffect u = ademEffect s := by
  have hbuf : Config.bufBytes = 0x100000 := rfl
  unfold ademCheck at hpass
  split_ifs at hpass
  have hsegment (j : Nat) (hj : j < s.srcLen / s.spb) : u.askSegment j = s.askSegment j := by
    rw [State.askSegment, h.spb_eq, State.askSegment]
    refine List.map_congr_left fun n hn => h.src64_eq ?_
    have hn := List.mem_range.mp hn
    have hlast : (j + 1) * s.spb ≤ s.srcLen := (Nat.mul_le_mul_right _ hj).trans (Nat.div_mul_le_self _ _)
    rw [Nat.succ_mul] at hlast
    omega
  have hdecisions : (List.range (s.srcLen / s.spb)).map (fun j => askDecide (s.table .acar s.spb) (u.askSegment j) s.spb) =
      (List.range (s.srcLen / s.spb)).map (fun j => askDecide (s.table .acar s.spb) (s.askSegment j) s.spb) :=
    List.map_congr_left fun j hj => by rw [hsegment j (List.mem_range.mp hj)]
  simp only [ademEffect, h.srcLen_eq, h.spb_eq, h.carrier_eq, h.csr, hdecisions]

theorem qpskDemodulate_eq (h : SameButDst s u) (hroom : s.signalLen ≤ 131072) : u.qpskDemodulate = s.qpskDemodulate := by
  simp only [State.qpskDemodulate, State.sampleRe, State.sampleIm, h.signalLen_eq, h.nt_eq, h.taps_eq, h.qcos_eq, h.qsin_eq,
    h.symbols_eq, h.sampleOffset_eq, h.sps_eq, h.noise_eq, h.csr]
  rw [h.srcF64s_eq (by omega)]

theorem qdemEffect_eq (h : SameButDst s u) (hpass : qdemCheck s = none) : qdemEffect u = qdemEffect s := by
  have hcar : Config.qcarMax = 131072 := rfl
  obtain ⟨-, hrest⟩ := (Option.orElse_eq_none _ _).mp hpass
  obtain ⟨-, hsizes⟩ := (Option.orElse_eq_none _ _).mp hrest
  have hroom : s.signalLen ≤ 131072 := by
    split_ifs at hsizes
    omega
  rw [qdemEffect, h.qpskDemodulate_eq hroom, h.fl_eq, h.csr, qdemEffect]

theorem rscencEffect_eq (h : SameButDst s u) : rscencEffect u = rscencEffect s := by
  have hframe : s.frameN < 2 ^ 16 := s.csr.frameLen.isLt
  simp only [rscencEffect, h.frameN_eq, h.rscRun_eq, h.csr]
  rw [h.srcBits_eq (by omega)]

theorem tencEffect_eq (h : SameButDst s u) : tencEffect u = tencEffect s := by
  have hframe : s.frameN < 2 ^ 16 := s.csr.frameLen.isLt
  simp only [tencEffect, h.frameN_eq, h.rscRun_eq, h.perm_eq, h.csr]
  rw [h.srcBits_eq (by omega)]

theorem received_eq (h : SameButDst s u) (hlegal : frameLegal s) : u.received = s.received := by
  have hthird (off : Nat) (hoff : off ≤ 2 * s.frameN) : (List.range s.frameN).map (fun i => u.src64 (off + i)) =
      (List.range s.frameN).map (fun i => s.src64 (off + i)) :=
    List.map_congr_left fun i hi => h.src64_eq (by have := List.mem_range.mp hi; omega)
  have hfirst : (List.range s.frameN).map u.src64 = (List.range s.frameN).map s.src64 := by
    simpa using hthird 0 (Nat.zero_le _)
  simp only [State.received, h.frameN_eq, h.perm_eq, hfirst, hthird s.frameN (by omega), hthird (2 * s.frameN) le_rfl]

theorem tdecEffect_eq (h : SameButDst s u) {iter : BitVec 8} (hpass : tdecCheck iter s = none) :
    tdecEffect iter u = tdecEffect iter s := by
  obtain ⟨-, hlegal⟩ := iter_pos_and_frameLegal_of_tdecCheck hpass
  rw [tdecEffect, h.received_eq hlegal, h.frameN_eq, h.csr, tdecEffect]

/-! ILV and DILV, where the table holds a permutation: ILV stays within SRC, DILV overwrites all it is laid over. -/

theorem holdsPermutation (h : SameButDst s u) (hperm : s.holdsPermutation) : u.holdsPermutation := by
  refine holdsPermutation_congr (by rw [h.csr]) (fun a ha => h.bytes a ?_) hperm
  simp only [Region.contains_iff, Region.base, Region.size, Config.nMax] at ha
  omega

theorem ilvEffect_eq (h : SameButDst s u) (hperm : s.holdsPermutation) : ilvEffect u = ilvEffect s := by
  obtain ⟨⟨-, hmax⟩, hbelow, -⟩ := (holdsPermutation_iff s).mp hperm
  rw [ilvEffect, h.perm_eq, h.frameN_eq, h.csr, ilvEffect]
  congr 1
  exact List.map_congr_left fun p hp => h.src8_eq (by have := hbelow p hp; omega)

theorem dilvEffect_eq (h : SameButDst s u) (hperm : s.holdsPermutation) : dilvEffect u = dilvEffect s := by
  have hcsr : (dilvEffect u).csr = (dilvEffect s).csr := by simp only [dilvEffect, h.csr, h.frameN_eq]
  have hmax : s.frameN ≤ 4096 := hperm.1.2
  have hdst : (dilvEffect u).dst = (dilvEffect s).dst := by
    refine List.ext_getElem? fun i => ?_
    by_cases hi : i < s.frameN
    · obtain ⟨k, hk, rfl⟩ := exists_ilvEntry_eq hperm hi
      have hget := dilvEffect_dst_getElem? (h.holdsPermutation hperm) (h.frameN_eq.symm ▸ hk)
      rw [h.ilvEntry_eq hk, h.src8_eq (by omega)] at hget
      rw [hget, dilvEffect_dst_getElem? hperm hk]
    · rw [List.getElem?_eq_none (by simpa [dilvEffect, h.frameN_eq] using hi),
        List.getElem?_eq_none (by simpa [dilvEffect] using hi)]
  exact congrArg₂ Effect.mk hdst hcsr

/-- A command whose checks pass has the same effect in both states. -/
theorem commandEffect_eq (h : SameButDst s u) (hkept : s.interleaverKept) {i : Instr} (hpass : failingCheck i s = none) :
    commandEffect i u = commandEffect i s := by
  have hperm (hpass : interleaverCheck s = none) : s.holdsPermutation := by
    rw [Machine.interleaverCheck_eq] at hpass
    split_ifs at hpass with _ hvalid
    exact hkept (by simpa using hvalid)
  cases i with
  | nop => simp only [commandEffect, nopEffect, h.csr]
  | ilvchk => simp only [commandEffect, ilvchkEffect, h.csr]
  | pack => exact h.packEffect_eq (srcLen_le_of_failingCheck (by decide) hpass)
  | unpack => exact h.unpackEffect_eq (srcLen_le_of_failingCheck (by decide) hpass)
  | rscenc => exact h.rscencEffect_eq
  | ilv => exact h.ilvEffect_eq (hperm hpass)
  | dilv => exact h.dilvEffect_eq (hperm hpass)
  | tenc => exact h.tencEffect_eq
  | tdec iter => exact h.tdecEffect_eq hpass
  | crc => exact h.crcEffect_eq (srcLen_le_of_failingCheck (by decide) hpass)
  | fbuild => exact h.fbuildEffect_eq (srcLen_le_of_failingCheck (by decide) hpass)
  | fparse => exact h.fparseEffect_eq (srcLen_le_of_failingCheck (by decide) hpass)
  | amod => exact h.amodEffect_eq (srcLen_le_of_failingCheck (by decide) hpass)
  | adem => exact h.ademEffect_eq hpass
  | qmod => exact h.qmodEffect_eq hpass
  | qdem => exact h.qdemEffect_eq hpass

end

end SameButDst

end Sys2Proof.Machine
end

section
/-! 70_reset_and_hazards.md settled: no command reads DST. -/

namespace Sys2Proof.Machine

/-- Settles O57: a command takes the same arm in both states; a failure reports the same error and writes nothing, a success
has the same effect, whose registers and output bytes are those of the next state. -/
theorem noCommandReadsDst : Obligations.NoCommandReadsDst := by
  intro i s u t t' hcsr hcompletions hkept hbytes hrun hrun'
  have h : SameButDst s u := ⟨hcsr, hcompletions, hbytes⟩
  cases hcheck : failingCheck i s with
  | none =>
    obtain ⟨n, hwrites⟩ := commandEffect_writes hcheck
    cases (exec_ok hcheck).symm.trans hrun
    cases (exec_ok ((h.failingCheck_eq i).trans hcheck)).symm.trans hrun'
    rw [h.commandEffect_eq hkept hcheck]
    refine ⟨rfl, fun j hj => ?_⟩
    have hin : j < (commandEffect i s).dst.length := (hwrites.length_eq (elementSize_pos i)).symm ▸ hj
    exact (completeOk_readByte_inside _ u hin).trans (completeOk_readByte_inside _ s hin).symm
  | some e =>
    cases (exec_err hcheck).symm.trans hrun
    cases (exec_err ((h.failingCheck_eq i).trans hcheck)).symm.trans hrun'
    refine ⟨?_, fun j hj => absurd hj (by simp)⟩
    rw [completeErr_csr, completeErr_csr]
    split <;> simp only [h.csr]

end Sys2Proof.Machine
end
